-- ==== Sys2Proof/Word.lean ====
section
/-! DEFINITION. The words of the PinMMU block: host registers, command words and pin words are 32 bits wide
(R7, R12, R53), bit 0 is the least significant, and the only widening is zero extension (R7). -/

namespace Sys2Proof

/-- A 32-bit word: a host register, a command word, an address or a pin word (R7, R12). -/
abbrev Word := BitVec 32

/-- One byte lane of a host register (R40). -/
abbrev Byte := BitVec 8

/-- `zext_32(v)`, the only widening of the block (R7). -/
abbrev zext {n : Nat} (v : BitVec n) : Word := v.setWidth 32

/-- The word whose only possible set bit is bit 0. -/
abbrev boolWord (b : Bool) : Word := zext (BitVec.ofBool b)

end Sys2Proof
end

