-- ==== Sys2Proof/Config.lean ====
section
/-! DEFINITION. What the implementation fixes and the spec leaves OPEN (R6, R38; 93_implementation_defined.md
U5 to U8), and the free values: draws no rule constrains (U1 to U4, U14 to U16). Every `opaque` constant here
has no body, so no proof can see a value of it. -/

namespace Sys2Proof

/-- `SS_DOMAIN_POLICY` (R6, R67, D10): may a 16 MB section carry a domain other than 0? -/
inductive SsDomainPolicy where
  | accept
  | reject
  deriving DecidableEq, Repr, Inhabited

/-- The parameters the document leaves open (R6, R38). Shared operations take them as an argument, so that a
claim can be made for every value. -/
structure Params where
  /-- `FIXED_ASID`, the single address-space id (D11). -/
  fixedAsid : BitVec 8
  /-- `SS_DOMAIN_POLICY` (D10). -/
  ssDomainPolicy : SsDomainPolicy
  /-- `CODE_BASE`, the default layout's code section (R65, D34). -/
  codeBase : Word
  /-- `STACK_BASE`, the default layout's stack section (R65, D34). -/
  stackBase : Word
  /-- `ISTACK_BASE`, the default layout's interrupt-stack section (R65, D34). -/
  istackBase : Word
  /-- `PINMMU_BASE`, the base address of the host register window (R38, D3). -/
  pinmmuBase : Word
  deriving DecidableEq, Repr, Inhabited

/-- What the processor's MMU makes of one memory access (R44, R45). -/
inductive AccessOutcome where
  /-- The access goes to this physical address. -/
  | physical (addr : Word)
  /-- The domain's DACR mode is no-access (R45). -/
  | domainFault
  /-- The entry's permissions refuse the access (R45). -/
  | permissionFault
  /-- The MMU is off, so R44 says nothing of the access. -/
  | untranslated
  deriving DecidableEq, Repr, Inhabited

namespace Config

/-- The parameters of the machine at hand (log entry 7). -/
opaque params : Params

/-- FREE VALUE (U4): the MMU's reported enable state at a draw, when the environment's list of answers is
empty (log entry 4). -/
opaque mmuReport : Nat → Bool

/-- FREE VALUE (U4): the caches' reported (instruction, data) enable state at a draw (log entry 4). -/
opaque cacheReport : Nat → Bool × Bool

/-- FREE VALUE (U1): word `k` (0 lva, 1 lpa, 2 lattr) of lockdown entry `i` after the reset event with this
draw (log entry 6). -/
opaque resetPinWord : Nat → Nat → Nat → Word

/-- FREE VALUE (U2): the DACR after the reset event with this draw (log entry 6). -/
opaque resetDacr : Nat → Word

/-- FREE VALUE (U3): the ASID after the reset event with this draw (log entry 6). -/
opaque resetAsid : Nat → BitVec 8

/-- FREE VALUE (U14): an access that no hardware-valid entry matches (log entry 15). -/
opaque missOutcome : Nat → Word → AccessOutcome

/-- FREE VALUE (U15): an access that two or more hardware-valid entries match (log entry 15). -/
opaque multipleMatchOutcome : Nat → Word → AccessOutcome

/-- FREE VALUE (U16): an access to a domain whose DACR field is the reserved 0b10 (log entry 15). -/
opaque reservedModeOutcome : Nat → Word → AccessOutcome

/-- FREE VALUE: a client access to an entry whose APX:AP is neither code of R70 (log entry 15). -/
opaque otherPermissionOutcome : Nat → Word → AccessOutcome

/-- FREE VALUE: the size in bytes of an entry whose SZ is neither 0b00 nor 0b11 (log entry 15). -/
opaque otherSize : BitVec 2 → Nat

end Config
end Sys2Proof
end

