-- ==== Sys2Proof/Syntax.lean ====
section
/-! DEFINITION. The nine commands of the block (R2, R58): one constructor per row of the opcode table, carrying
the row's fields as raw bits (R54 to R57). SETSEC, ENCODE, PIN and DACSET also read the register OPA, which is
state and no field (R14). -/

namespace Sys2Proof

/-- A command of the block (R58). -/
inductive Instr where
  /-- INIT, OP 0x1, format N (R84). -/
  | init
  /-- SETSEC, OP 0x2, format D (R74). -/
  | setsec (slot : BitVec 3) (gr : BitVec 1) (dom : BitVec 8) (perm : BitVec 2) (attr : BitVec 3)
  /-- ENCODE, OP 0x3, format D with SLOT 0 (R75). -/
  | encode (gr : BitVec 1) (dom : BitVec 8) (perm : BitVec 2) (attr : BitVec 3)
  /-- PIN, OP 0x4, format D with SLOT 0 (R76). -/
  | pin (gr : BitVec 1) (dom : BitVec 8) (perm : BitVec 2) (attr : BitVec 3)
  /-- DACCALC, OP 0x5, format N (R79). -/
  | daccalc
  /-- DACSET, OP 0x6, format N (R80). -/
  | dacset
  /-- COMMIT, OP 0x7, format P (R85). -/
  | commit (pol : BitVec 2)
  /-- DISABLE, OP 0x8, format N (R86). -/
  | disable
  /-- REMAP, OP 0x9, format P (R87). -/
  | remap (pol : BitVec 2)
  deriving DecidableEq, Repr

end Sys2Proof
end

