-- ==== Sys2Proof/WellFormed.lean ====
section
/-! DEFINITION. Which command terms an encoding stands for: the two constraints of the opcode table, SLOT at most
4 in SETSEC and POL not 0b11 in COMMIT and REMAP (R59 checks 3 and 4, R60). DOM, PERM and ATTR are never decode
errors (R59). -/

namespace Sys2Proof

/-- A legal command word stands for this term (R59, R60). -/
def Instr.wellFormed : Instr → Bool
  | .init => true
  | .setsec slot _ _ _ _ => decide (slot.toNat ≤ 4)
  | .encode _ _ _ _ => true
  | .pin _ _ _ _ => true
  | .daccalc => true
  | .dacset => true
  | .commit pol => decide (pol ≠ 3)
  | .disable => true
  | .remap pol => decide (pol ≠ 3)

end Sys2Proof
end

