-- ==== Sys2Proof/Decode.lean ====
section
/-! DEFINITION. From a 32-bit command word to a command or a named rejection, with the checks in the order of
R59, and back: the word of a command, from the same field positions (R54 to R56, R58). -/

namespace Sys2Proof

/-- Why a command word is illegal (R59); the reason number is IllegalCommand's second operand (R88). -/
inductive DecodeError where
  /-- Reason 1: OP is 0x0 or 0xA to 0xF. -/
  | reservedOpcode
  /-- Reason 2: a must-be-0 bit of the format is 1. -/
  | reservedBits
  /-- Reason 3: SETSEC with SLOT 5 to 7, or ENCODE or PIN with SLOT not 0. -/
  | badSlot
  /-- Reason 4: COMMIT or REMAP with POL 0b11. -/
  | reservedPolicy
  deriving DecidableEq, Repr

/-- The reason numbers 1 to 4 of R59. -/
def decodeReason : DecodeError → Word
  | .reservedOpcode => 1
  | .reservedBits => 2
  | .badSlot => 3
  | .reservedPolicy => 4

/-- `OP = w[31:28]` (R53). -/
def opField (w : Word) : BitVec 4 := w.extractLsb' 28 4

/-- `SLOT = w[27:25]` (R55). -/
def slotField (w : Word) : BitVec 3 := w.extractLsb' 25 3

/-- `GR = w[24]` (R55). -/
def grField (w : Word) : BitVec 1 := w.extractLsb' 24 1

/-- `DOM = w[23:16]` (R55). -/
def domField (w : Word) : BitVec 8 := w.extractLsb' 16 8

/-- `PERM = w[15:14]` (R55). -/
def permField (w : Word) : BitVec 2 := w.extractLsb' 14 2

/-- `ATTR = w[13:11]` (R55). -/
def attrField (w : Word) : BitVec 3 := w.extractLsb' 11 3

/-- `POL = w[27:26]` (R56). -/
def polField (w : Word) : BitVec 2 := w.extractLsb' 26 2

/-- Format N: `w[27:0]` must be 0 (R54). -/
def decodeN (w : Word) (i : Instr) : Except DecodeError Instr :=
  if w.extractLsb' 0 28 = 0 then .ok i else .error .reservedBits

/-- Format D: `w[10:0]` must be 0, then SLOT must be legal for the command (R55, R59). -/
def decodeD (w : Word) (slotOk : Bool) (i : Instr) : Except DecodeError Instr :=
  if w.extractLsb' 0 11 = 0 then
    if slotOk then .ok i else .error .badSlot
  else .error .reservedBits

/-- Format P: `w[25:0]` must be 0, then POL must not be the reserved code (R56, R59). -/
def decodeP (w : Word) (i : Instr) : Except DecodeError Instr :=
  if w.extractLsb' 0 26 = 0 then
    if polField w = 3 then .error .reservedPolicy else .ok i
  else .error .reservedBits

/-- The command a word selects, or the first failing check (R58, R59). -/
def decode (w : Word) : Except DecodeError Instr :=
  match (opField w).toNat with
  | 0x1 => decodeN w .init
  | 0x2 => decodeD w (decide ((slotField w).toNat ≤ 4))
      (.setsec (slotField w) (grField w) (domField w) (permField w) (attrField w))
  | 0x3 => decodeD w (decide (slotField w = 0))
      (.encode (grField w) (domField w) (permField w) (attrField w))
  | 0x4 => decodeD w (decide (slotField w = 0))
      (.pin (grField w) (domField w) (permField w) (attrField w))
  | 0x5 => decodeN w .daccalc
  | 0x6 => decodeN w .dacset
  | 0x7 => decodeP w (.commit (polField w))
  | 0x8 => decodeN w .disable
  | 0x9 => decodeP w (.remap (polField w))
  | _ => .error .reservedOpcode

/-- A format-N word (R54). -/
def wordN (op : BitVec 4) : Word := op ++ (0 : BitVec 28)

/-- A format-D word (R55). -/
def wordD (op : BitVec 4) (slot : BitVec 3) (gr : BitVec 1) (dom : BitVec 8) (perm : BitVec 2)
    (attr : BitVec 3) : Word :=
  op ++ slot ++ gr ++ dom ++ perm ++ attr ++ (0 : BitVec 11)

/-- A format-P word (R56). -/
def wordP (op : BitVec 4) (pol : BitVec 2) : Word := op ++ pol ++ (0 : BitVec 26)

/-- The word that stands for a command (R54 to R56, R58). It is the word `raise` records in `ERR_CMD` (R90). -/
def encodeWord : Instr → Word
  | .init => wordN 0x1
  | .setsec slot gr dom perm attr => wordD 0x2 slot gr dom perm attr
  | .encode gr dom perm attr => wordD 0x3 0 gr dom perm attr
  | .pin gr dom perm attr => wordD 0x4 0 gr dom perm attr
  | .daccalc => wordN 0x5
  | .dacset => wordN 0x6
  | .commit pol => wordP 0x7 pol
  | .disable => wordN 0x8
  | .remap pol => wordP 0x9 pol

/-- Byte lane `k` of a host register, lane 0 (the lowest address) being bits 7 to 0 (R40). -/
def byteLane (v : Word) (k : Nat) : Byte := v.extractLsb' (8 * k) 8

/-- The register with these byte lanes, lowest address first (R40). -/
def wordOfLanes (b0 b1 b2 b3 : Byte) : Word := b3 ++ b2 ++ b1 ++ b0

/-- The command read from a table word: every row has one 32-bit word (R61), bit 0 least significant. -/
def decodeTableWord (nbits w : Nat) : Option Instr :=
  match decode (BitVec.ofNat 32 (w % 2 ^ min nbits 32)) with
  | .ok i => some i
  | .error _ => none

end Sys2Proof
end

