-- ==== Sys2Proof/Machine/State.lean ====
section
/-! DEFINITION. The architectural state of the PinMMU block (10_state.md), as plain data: the block's registers,
the control state it drives into the processor, its event history, and the inputs still to come from the host
and the environment. -/

namespace Sys2Proof.Machine

/-- The two states of the lifecycle sequencer (R18). -/
inductive Life where
  | disabled
  | mapped
  deriving DecidableEq, Repr

/-- The layout's explicit two-state flag (R19). -/
inductive LayoutFlag where
  | uninitialized
  | committed
  deriving DecidableEq, Repr

/-- The five sections of the layout, in their fixed order (R27). -/
inductive SlotName where
  | code
  | stack
  | istack
  | heap
  | device
  deriving DecidableEq, Repr

/-- The policies of COMMIT and REMAP (R56, R82). -/
inductive Policy where
  | asIs
  | cached
  | uncached
  deriving DecidableEq, Repr

/-- The legal permission classes (R57). -/
inductive PermClass where
  | privilegedOnly
  | userReadWrite
  deriving DecidableEq, Repr

/-- The legal cache-attribute classes, in the document's order (R57). -/
inductive AttrClass where
  | stronglyOrderedDevice
  | sharedDevice
  | uncachedNormal
  | writeBackAllocate
  | writeBackNoAllocate
  | writeThroughNoAllocate
  deriving DecidableEq, Repr

/-- A section descriptor with its raw codes (R27, R55): base address, granule bit, domain id, permission code,
cache-attribute code. -/
structure Descriptor where
  addr : Word
  gr   : BitVec 1
  dom  : BitVec 8
  perm : BitVec 2
  attr : BitVec 3
  deriving DecidableEq, Repr

/-- One layout slot (R27). -/
structure Slot where
  valid : Bool
  sec   : Descriptor
  deriving DecidableEq, Repr

/-- The slot file, five named sections (R27). -/
structure Slots where
  code   : Slot
  stack  : Slot
  istack : Slot
  heap   : Slot
  device : Slot
  deriving DecidableEq, Repr

/-- The three words of a pin (R31, R69). -/
structure Pin where
  lva   : Word
  lpa   : Word
  lattr : Word
  deriving DecidableEq, Repr

/-- The layout bookkeeping (R29). -/
structure Layout where
  committed : LayoutFlag
  pinsUsed  : Nat
  domAccum  : Word
  deriving DecidableEq, Repr

/-- The error record (R26). -/
structure ErrRecord where
  code : BitVec 4
  cmd  : Word
  op0  : Word
  op1  : Word
  deriving DecidableEq, Repr

/-- One hardware write of the block (R33). -/
inductive Event where
  | pinWrite (i : Fin 8) (p : Pin)
  | dacrWrite (v : Word)
  | asidWrite (a : BitVec 8)
  | mmuEnable (b : Bool)
  | cacheEnable (i d : Bool)
  | cacheInvalidateAll
  | tlbInvalidateAll
  | tlbSync
  | barrier
  | fatal (r : ErrRecord)
  deriving DecidableEq, Repr

/-- One move of the host, or a reset of the platform (R8, R41, R101, R104). An access names its width in bytes
and its offset in the host register window. -/
inductive HostMove where
  | write (bytes offset : Nat) (value : Word)
  | read (bytes offset : Nat)
  | reset
  deriving DecidableEq, Repr

/-- Why a run stops with a fault. -/
inductive Fault where
  /-- A host access at an offset of 0x200 or more, outside the block's register window (R12, R38). Raised by
  `hostMove`. Safe: the run stops where the platform would go on outside the block (log entry 12). -/
  | outsideWindow (offset : Nat)
  deriving DecidableEq, Repr

/-- Why a step is refused. -/
inductive Refusal where
  /-- A command without a meaning; raised only by an arm of `exec`. No arm raises it in this model. Safe. -/
  | notModelled (mnemonic : String)
  /-- A host access that is not 32 bits wide, or at an offset that is no multiple of 4: the spec gives it no
  step (R41, U12). Raised by `hostMove`. Safe (log entry 12). -/
  | unadmittedAccess (bytes offset : Nat)
  deriving DecidableEq, Repr

/-- The state of the machine (10_state.md); the last five fields are the model's own. -/
structure State where
  /-- `S.opa`, operand A (R14). -/
  opa : Word
  /-- `S.init` (R20). -/
  init : Bool
  /-- `S.life` (R18). -/
  life : Life
  /-- `S.halted` (R21). -/
  halted : Bool
  /-- `S.err` (R26). -/
  err : ErrRecord
  /-- `S.slot[0..4]` (R27). -/
  slots : Slots
  /-- `S.layout` (R29). -/
  layout : Layout
  /-- `S.next`, the next free pin index (R30). -/
  next : Nat
  /-- `S.enc`, the last ENCODE result (R32). -/
  enc : Pin
  /-- `S.dac_result`, the last DACCALC result (R32). -/
  dacResult : Word
  /-- `S.hw[0..7]`, the processor's lockdown entries (R31). -/
  hw : Vector Pin 8
  /-- `S.dacr` (R22). -/
  dacr : Word
  /-- `S.asid` (R23). -/
  asid : BitVec 8
  /-- `S.mmu_en` (R24). -/
  mmuEn : Bool
  /-- `S.ic_en` (R25). -/
  icEn : Bool
  /-- `S.dc_en` (R25). -/
  dcEn : Bool
  /-- `S.events`, oldest first (R33). -/
  events : List Event
  /-- MODEL: the host's accesses still to come, in program order (R11, R46; log entry 2). -/
  host : List HostMove
  /-- MODEL: the value the host's last register read returned (R13; log entry 3). -/
  readData : Word
  /-- MODEL: the environment's coming answers to `observe(MMU)` (R34; log entry 4). -/
  mmuReports : List Bool
  /-- MODEL: the environment's coming answers to `observe(CACHES)`, (instruction, data) (R34; log entry 4). -/
  cacheReports : List (Bool × Bool)
  /-- MODEL: how many free values have been drawn (log entry 4). -/
  draws : Nat
  deriving DecidableEq, Repr

/-- The pin with all three words 0. -/
def Pin.zero : Pin := ⟨0, 0, 0⟩

/-- A slot that holds nothing: all fields 0 (R37). -/
def Slot.empty : Slot := ⟨false, ⟨0, 0, 0, 0, 0⟩⟩

/-- The slot file after reset (R37). -/
def Slots.empty : Slots := ⟨Slot.empty, Slot.empty, Slot.empty, Slot.empty, Slot.empty⟩

/-- The error record before the first error (R26). -/
def ErrRecord.none : ErrRecord := ⟨0, 0, 0, 0⟩

/-- The machine right after reset (R37). `hw`, `dacr` and `asid` are unspecified there: 0 is the model's value
(DESIGN CHOICE, log entry 5). The model's own inputs are empty (log entries 2 to 4). -/
def State.reset : State where
  opa := 0
  init := false
  life := .disabled
  halted := false
  err := ErrRecord.none
  slots := Slots.empty
  layout := ⟨.uninitialized, 0, 0⟩
  next := 0
  enc := Pin.zero
  dacResult := 0
  hw := Vector.replicate 8 Pin.zero
  dacr := 0
  asid := 0
  mmuEn := false
  icEn := false
  dcEn := false
  events := []
  host := []
  readData := 0
  mmuReports := []
  cacheReports := []
  draws := 0

end Sys2Proof.Machine
end

