-- ==== Sys2Proof/Machine/Operands.lean ====
section
/-! DEFINITION. Operand forms and the encoder's pure functions: field codes (R57), slot and policy names (R27,
R56), granules and alignment (R39), the validity predicates (R66 to R68), the pin format (R69 to R72), the
domain mask (R77, R78) and the policy presets (R82). -/

namespace Sys2Proof.Machine

/-! ## Field codes -/

/-- The SLOT codes 0 to 4 (R57); `none` is an illegal code. -/
def slotOf (slot : BitVec 3) : Option SlotName :=
  match slot.toNat with
  | 0 => some .code
  | 1 => some .stack
  | 2 => some .istack
  | 3 => some .heap
  | 4 => some .device
  | _ => none

/-- The number of a slot (R27). -/
def slotIndex : SlotName → Nat
  | .code => 0
  | .stack => 1
  | .istack => 2
  | .heap => 3
  | .device => 4

/-- The five slots in ascending order: `for s in 0..4` (R8). -/
def slotOrder : List SlotName := [.code, .stack, .istack, .heap, .device]

/-- The POL codes (R56); `none` is the reserved code 0b11. -/
def policyOf (pol : BitVec 2) : Option Policy :=
  match pol.toNat with
  | 0 => some .asIs
  | 1 => some .cached
  | 2 => some .uncached
  | _ => none

/-- The PERM codes (R57); `perm_ok` (R68) holds iff this is `some`. -/
def permOf (perm : BitVec 2) : Option PermClass :=
  match perm.toNat with
  | 0 => some .privilegedOnly
  | 1 => some .userReadWrite
  | _ => none

/-- The ATTR codes (R57); `attr_ok` (R68) holds iff this is `some`. -/
def attrOf (attr : BitVec 3) : Option AttrClass :=
  match attr.toNat with
  | 0 => some .stronglyOrderedDevice
  | 1 => some .sharedDevice
  | 2 => some .uncachedNormal
  | 3 => some .writeBackAllocate
  | 4 => some .writeBackNoAllocate
  | 5 => some .writeThroughNoAllocate
  | _ => none

/-- Slot `n` of the slot file (R27). -/
def slotAt (f : Slots) : SlotName → Slot
  | .code => f.code
  | .stack => f.stack
  | .istack => f.istack
  | .heap => f.heap
  | .device => f.device

/-- The slot file with slot `n` replaced (R27). -/
def slotPut (f : Slots) (n : SlotName) (v : Slot) : Slots :=
  match n with
  | .code => { f with code := v }
  | .stack => { f with stack := v }
  | .istack => { f with istack := v }
  | .heap => { f with heap := v }
  | .device => { f with device := v }

/-! ## Validity predicates -/

/-- `granule(gr)`: 1 MB or 16 MB (R39). -/
def granule (gr : BitVec 1) : Word := if gr = 0 then 0x00100000 else 0x01000000

/-- `aligned(addr, gr)`: `addr % granule(gr) = 0` (R39, R66). -/
def aligned (addr : Word) (gr : BitVec 1) : Bool := addr % granule gr == 0

/-- `RESERVED_DOMAINS`, decided empty (R6, D9; log entry 8). -/
def reservedDomains : List (BitVec 8) := []

/-- `dom_ok(dom, gr)` (R67). -/
def domOk (policy : SsDomainPolicy) (dom : BitVec 8) (gr : BitVec 1) : Bool :=
  decide (dom.toNat < 16) && !(reservedDomains.contains dom) && !(gr == 1 && dom != 0 && policy == .reject)

/-! ## The pin format -/

/-- APX and AP of a permission class (R70; PRESUMED by the spec, log entry 9). -/
def apMap : PermClass → BitVec 1 × BitVec 2
  | .privilegedOnly => (0, 0b01)
  | .userReadWrite => (0, 0b11)

/-- TEX, C and B of a cache-attribute class (R71; PRESUMED by the spec, log entry 9). -/
def attrMap : AttrClass → BitVec 3 × BitVec 1 × BitVec 1
  | .stronglyOrderedDevice => (0b000, 0, 0)
  | .sharedDevice => (0b000, 0, 1)
  | .uncachedNormal => (0b001, 0, 0)
  | .writeBackAllocate => (0b001, 1, 1)
  | .writeBackNoAllocate => (0b000, 1, 1)
  | .writeThroughNoAllocate => (0b000, 1, 0)

/-- SZ of a granule: 0b11 for 1 MB, 0b00 for 16 MB (R69, R72). -/
def sizeCode (gr : BitVec 1) : BitVec 2 := if gr = 0 then 0b11 else 0b00

/-- The encoder `encode(addr, gr, dom, perm, attr)` (R72) in the pin format of R69 (log entry 9). -/
def encodePin (asid : BitVec 8) (addr : Word) (gr : BitVec 1) (dom : BitVec 8) (perm : PermClass)
    (attr : AttrClass) : Pin where
  lva := (addr &&& 0xFFFFF000) ||| ((0 : Word) <<< 9) ||| zext asid
  lpa := (addr &&& 0xFFFFF000) ||| (zext (sizeCode gr) <<< 6) ||| (zext (apMap perm).1 <<< 3)
    ||| (zext (apMap perm).2 <<< 1) ||| 1
  lattr := (zext (dom.extractLsb' 0 4) <<< 7) ||| ((0 : Word) <<< 6) ||| (zext (attrMap attr).1 <<< 3)
    ||| (zext (attrMap attr).2.1 <<< 2) ||| (zext (attrMap attr).2.2 <<< 1) ||| 0

/-! ## The domain mask -/

/-- `CLIENT_CODE` (R77, D12; PRESUMED by the spec, log entry 9). -/
def clientCode : BitVec 2 := 0b01

/-- The DACR field of one domain: `zext_32(CLIENT_CODE) << (2 * dom[3:0])` (R78). -/
def domainMask (dom : BitVec 8) : Word := zext clientCode <<< (2 * (dom.extractLsb' 0 4).toNat)

/-- `dac_compute()` over the slot file, in slot order (R78). -/
def dacCompute (f : Slots) : Word :=
  slotOrder.foldl (fun v n => v ||| domainMask (slotAt f n).sec.dom) 0

/-- The 2-bit access mode of domain `d`: `dacr[2d+1:2d]` (R22). -/
def domainMode (dacr : Word) (d : BitVec 4) : BitVec 2 := dacr.extractLsb' (2 * d.toNat) 2

/-! ## The policy presets -/

/-- The slot with its cache-attribute code rewritten. -/
def setAttr (a : BitVec 3) (v : Slot) : Slot := { v with sec := { v.sec with attr := a } }

/-- `apply_policy(pol)` on the slot file (R82). -/
def applyPolicy (pol : Policy) (f : Slots) : Slots :=
  match pol with
  | .asIs => f
  | .cached => ⟨setAttr 3 f.code, setAttr 3 f.stack, setAttr 3 f.istack, setAttr 3 f.heap, setAttr 1 f.device⟩
  | .uncached => ⟨setAttr 2 f.code, setAttr 2 f.stack, setAttr 2 f.istack, setAttr 2 f.heap, setAttr 0 f.device⟩

/-- `cache_target(pol)`, the (instruction, data) cache enables a policy requests; AS_IS leaves the caches alone
(R82, R85). -/
def cacheTarget : Policy → Option (Bool × Bool)
  | .asIs => none
  | .cached => some (true, true)
  | .uncached => some (false, false)

end Sys2Proof.Machine
end

