-- ==== Sys2Proof/Machine/Flags.lean ====
section
/-! DEFINITION. The status fields and the packed readback words computed from State: STATUS (R17), ERR_CODE,
LAYOUT_INFO, PINVALID and ASID (R12), SLOT<s>_CFG (R28). None of them is stored a second time. -/

namespace Sys2Proof.Machine

/-- `STATUS[1]`: 1 iff the life state is Mapped (R17). -/
def isMapped (s : State) : Bool := s.life == .mapped

/-- `STATUS[11:7]`: bit s is the valid bit of slot s (R17). -/
def slotValidBits (f : Slots) : BitVec 5 :=
  BitVec.ofBool f.device.valid ++ BitVec.ofBool f.heap.valid ++ BitVec.ofBool f.istack.valid
    ++ BitVec.ofBool f.stack.valid ++ BitVec.ofBool f.code.valid

/-- `STATUS` (R17). -/
def statusWord (s : State) : Word :=
  (0 : BitVec 17) ++ BitVec.ofBool s.dcEn ++ BitVec.ofBool s.icEn ++ BitVec.ofBool s.mmuEn
    ++ slotValidBits s.slots ++ BitVec.ofNat 4 s.next
    ++ BitVec.ofBool s.halted ++ BitVec.ofBool (isMapped s) ++ BitVec.ofBool s.init

/-- `LAYOUT_INFO` (R12). -/
def layoutInfo (l : Layout) : Word :=
  (0 : BitVec 28) ++ BitVec.ofBool (l.committed == .committed) ++ BitVec.ofNat 3 l.pinsUsed

/-- Pin `i` is logically valid (R30). -/
def logicallyValid (s : State) (i : Nat) : Bool := decide (i < s.next)

/-- `PINVALID`: `(1 << next) - 1` in bits 7 to 0 (R12, R30). -/
def pinValidWord (s : State) : Word := zext (BitVec.ofNat 8 (2 ^ s.next - 1))

/-- `SLOT<s>_CFG`: the slot in the field positions of a format-D word (R28). -/
def slotCfg (d : Descriptor) : Word :=
  (0 : BitVec 7) ++ d.gr ++ d.dom ++ d.perm ++ d.attr ++ (0 : BitVec 11)

/-- An entry whose V bit `lpa[0]` is 1 is hardware-valid (R31). -/
def hardwareValid (p : Pin) : Bool := p.lpa.getLsbD 0

end Sys2Proof.Machine
end

