-- ==== Sys2Proof/Machine/Ops.lean ====
section
/-! DEFINITION. The named operations every command is built from: emitting an event with its effect (R33), the
bracketed hardware write `hw` (R47), raising an error (R88 to R90), sampling the environment (R34), and the
shared procedures `pin_commit` (R73) and `unmap_all` (R83). Raising is the block's one way of taking an
exception; there is no return from it but reset (R92, R93). -/

namespace Sys2Proof.Machine

/-! ## Events -/

/-- What an event sets in the block's record of the processor (R22 to R25, R31). -/
def applyEvent (e : Event) (s : State) : State :=
  match e with
  | .pinWrite i p => { s with hw := s.hw.set i p }
  | .dacrWrite v => { s with dacr := v }
  | .asidWrite a => { s with asid := a }
  | .mmuEnable b => { s with mmuEn := b }
  | .cacheEnable i d => { s with icEn := i, dcEn := d }
  | .cacheInvalidateAll => s
  | .tlbInvalidateAll => s
  | .tlbSync => s
  | .barrier => s
  | .fatal _ => s

/-- `emit E`: the effect of the event, and the event appended to the history (R8, R33). -/
def emit (e : Event) (s : State) : State :=
  { applyEvent e s with events := s.events ++ [e] }

/-- `hw(E)`: `emit E; emit Barrier` (R47). -/
def hwWrite (e : Event) (s : State) : State := emit .barrier (emit e s)

/-! ## Errors -/

/-- The causes of PreconditionViolation (R89). -/
inductive PreconditionCause where
  | commitWhileMapped
  | disableWhileDisabled
  | mmuReportsDisabled
  | mmuReportsEnabled
  | cachesDiffer (observedI observedD : Bool)
  | beforeInit
  | slotNotLoaded (n : SlotName)
  | setsecWhileMapped (n : SlotName)
  deriving DecidableEq, Repr

/-- The errors of the block with what they report (R88). -/
inductive BlockError where
  | alignmentViolation (addr : Word) (gr : BitVec 1)
  | illegalDomain (dom : BitVec 8) (gr : BitVec 1)
  | capacityExceeded (index : Nat)
  | invalidPermission (perm : BitVec 2)
  | invalidAttribute (attr : BitVec 3)
  | doubleInitialization
  | preconditionViolation (cause : PreconditionCause)
  | illegalCommand (reason : DecodeError)
  deriving DecidableEq, Repr

/-- Subcode and detail of a PreconditionViolation (R89). -/
def preconditionOperands : PreconditionCause → Word × Word
  | .commitWhileMapped => (1, 0)
  | .disableWhileDisabled => (2, 0)
  | .mmuReportsDisabled => (3, 0)
  | .mmuReportsEnabled => (4, 1)
  | .cachesDiffer i d => (5, (boolWord i <<< 1) ||| boolWord d)
  | .beforeInit => (6, 0)
  | .slotNotLoaded n => (7, BitVec.ofNat 32 (slotIndex n))
  | .setsecWhileMapped n => (8, BitVec.ofNat 32 (slotIndex n))

/-- The error code, `ERR_CODE` (R88). -/
def errorCode : BlockError → BitVec 4
  | .alignmentViolation _ _ => 1
  | .illegalDomain _ _ => 2
  | .capacityExceeded _ => 3
  | .invalidPermission _ => 4
  | .invalidAttribute _ => 4
  | .doubleInitialization => 5
  | .preconditionViolation _ => 6
  | .illegalCommand _ => 7

/-- `ERR_OP0` and `ERR_OP1` of an error raised in a command with word `w` (R88). -/
def errorOperands (w : Word) : BlockError → Word × Word
  | .alignmentViolation addr gr => (addr, granule gr)
  | .illegalDomain dom gr => (zext dom, zext gr)
  | .capacityExceeded index => (BitVec.ofNat 32 index, 8)
  | .invalidPermission perm => (zext perm, 0)
  | .invalidAttribute attr => (zext attr, 1)
  | .doubleInitialization => (1, 0)
  | .preconditionViolation cause => preconditionOperands cause
  | .illegalCommand reason => (w, decodeReason reason)

/-- The record an error latches (R26, R90). -/
def errorRecord (e : BlockError) (w : Word) : ErrRecord :=
  ⟨errorCode e, w, (errorOperands w e).1, (errorOperands w e).2⟩

/-- `raise E(op0, op1)` in a command with word `w`: latch the record, halt, emit Fatal; nothing is rolled back
(R90, R92). -/
def raiseError (e : BlockError) (w : Word) (s : State) : State :=
  emit (.fatal (errorRecord e w)) { s with err := errorRecord e w, halted := true }

/-! ## Sequencing the steps of a command -/

/-- A command under way: its next step runs, or a `raise` has ended it (R90). -/
inductive Progress where
  | running (s : State)
  | raised (s : State)
  deriving DecidableEq, Repr

/-- The next step of a command; a raised error skips it (R90). -/
def andThen (p : Progress) (f : State → Progress) : Progress :=
  match p with
  | .running s => f s
  | .raised s => .raised s

/-- A command that raises an error here. -/
def stopWith (e : BlockError) (w : Word) (s : State) : Progress := .raised (raiseError e w s)

/-- A command ends in a next state whether it completes or halts the block (R9, R90). -/
def finish (p : Progress) : Host.Outcome State Fault Refusal :=
  match p with
  | .running s => .next s
  | .raised s => .next s

/-! ## Environment inputs -/

/-- `observe(MMU)`: the environment's next answer, or a free value (R34, U4; log entry 4). -/
def mmuReport (s : State) : Bool :=
  match s.mmuReports with
  | b :: _ => b
  | [] => Config.mmuReport s.draws

/-- The state after `observe(MMU)` has taken its answer. -/
def takeMmuReport (s : State) : State :=
  match s.mmuReports with
  | _ :: rest => { s with mmuReports := rest }
  | [] => { s with draws := s.draws + 1 }

/-- `observe(CACHES)`: the environment's next answer (instruction, data), or a free value (R34, U4). -/
def cacheReport (s : State) : Bool × Bool :=
  match s.cacheReports with
  | b :: _ => b
  | [] => Config.cacheReport s.draws

/-- The state after `observe(CACHES)` has taken its answer. -/
def takeCacheReport (s : State) : State :=
  match s.cacheReports with
  | _ :: rest => { s with cacheReports := rest }
  | [] => { s with draws := s.draws + 1 }

/-! ## Shared procedures -/

/-- The checks of permission, domain and attribute in that order, and the encoder (R73, R75). -/
def encodeChecked (P : Params) (d : Descriptor) : Except BlockError Pin :=
  match permOf d.perm with
  | none => .error (.invalidPermission d.perm)
  | some perm =>
    if domOk P.ssDomainPolicy d.dom d.gr then
      match attrOf d.attr with
      | none => .error (.invalidAttribute d.attr)
      | some attr => .ok (encodePin P.fixedAsid d.addr d.gr d.dom perm attr)
    else .error (.illegalDomain d.dom d.gr)

/-- The end of `pin_commit`: the bracketed write of entry `next`, and `S.next <- idx + 1` (R73). -/
def writePin (p : Pin) (s : State) (h : s.next < 8) : State :=
  { hwWrite (.pinWrite ⟨s.next, h⟩ p) s with next := s.next + 1 }

/-- `pin_commit` in a command with word `w` (R73). -/
def pinCommit (P : Params) (w : Word) (d : Descriptor) (s : State) : Progress :=
  if aligned d.addr d.gr then
    if h : s.next < 8 then
      match encodeChecked P d with
      | .error e => stopWith e w s
      | .ok p => .running (writePin p s h)
    else stopWith (.capacityExceeded s.next) w s
  else stopWith (.alignmentViolation d.addr d.gr) w s

/-- The first slot of a list that is not loaded (R79, R85). -/
def firstUnloaded (f : Slots) (names : List SlotName) : Option SlotName :=
  names.find? fun n => !(slotAt f n).valid

/-- `for s in 0..4: if S.slot[s].valid = 0: raise PreconditionViolation(7, s)` (R79, R85). -/
def checkSlots (w : Word) (s : State) : Progress :=
  match firstUnloaded s.slots slotOrder with
  | some n => stopWith (.preconditionViolation (.slotNotLoaded n)) w s
  | none => .running s

/-- `unmap_all()` (R83). -/
def unmapAll (s : State) : State :=
  { s with next := 0, layout := ⟨.uninitialized, 0, 0⟩, life := .disabled }

end Sys2Proof.Machine
end

