-- ==== Sys2Proof/Machine/DomainAccess.lean ====
section
/-! DEFINITION. The domain-access-control register builder: DACCALC and DACSET (41_domain_access.md R79, R80). -/

namespace Sys2Proof.Machine

/-- DACCALC (R79). -/
def execDaccalc (s : State) : Host.Outcome State Fault Refusal :=
  finish (andThen (checkSlots (encodeWord .daccalc) s) fun s =>
    .running { s with dacResult := dacCompute s.slots })

/-- DACSET (R80). -/
def execDacset (s : State) : Host.Outcome State Fault Refusal :=
  finish (if s.init then .running (hwWrite (.dacrWrite s.opa) (emit .barrier s))
    else stopWith (.preconditionViolation .beforeInit) (encodeWord .dacset) s)

end Sys2Proof.Machine
end

