-- ==== Sys2Proof/Machine/Lifecycle.lean ====
section
/-! DEFINITION. The MMU lifecycle sequencer: INIT, COMMIT, DISABLE and REMAP (42_lifecycle.md R84 to R87). Each
body that depends on an OPEN parameter takes it as an argument. -/

namespace Sys2Proof.Machine

/-! ## INIT -/

/-- The eight lockdown entries in ascending order: `for i in 0..7` (R84). -/
def pinOrder : List (Fin 8) := [0, 1, 2, 3, 4, 5, 6, 7]

/-- INIT's steps after its guard (R84). -/
def initBlock (s : State) : State :=
  let s := emit .barrier s
  let s := hwWrite (.cacheEnable false false) s
  let s := emit .barrier (emit .tlbInvalidateAll (emit .cacheInvalidateAll s))
  let s := pinOrder.foldl (fun t i => hwWrite (.pinWrite i Pin.zero) t) s
  let s := hwWrite (.dacrWrite 0) s
  { s with next := 0, init := true }

/-- INIT (R84). -/
def execInit (s : State) : Host.Outcome State Fault Refusal :=
  finish (if s.init then stopWith .doubleInitialization (encodeWord .init) s else .running (initBlock s))

/-! ## COMMIT -/

/-- `S.layout.pins_used <- S.layout.pins_used + 1` (R85). -/
def countPin (s : State) : State :=
  { s with layout := { s.layout with pinsUsed := s.layout.pinsUsed + 1 } }

/-- The pin loop of COMMIT over a list of slots: `pin_commit`, then `pins_used + 1` (R85). -/
def pinSlots (P : Params) (w : Word) : List SlotName → State → Progress
  | [], s => .running s
  | n :: rest, s =>
    andThen (pinCommit P w (slotAt s.slots n).sec s) fun t =>
      pinSlots P w rest (countPin t)

/-- COMMIT's steps from the pins to the MMU enable: domain mask, DACR, ASID, MMU (R85). -/
def driveMapping (P : Params) (s : State) : State :=
  let v := dacCompute s.slots
  let s := { s with layout := { s.layout with domAccum := v } }
  hwWrite (.mmuEnable true) (hwWrite (.asidWrite P.fixedAsid) (hwWrite (.dacrWrite v) s))

/-- COMMIT's MMU self-check (R85). -/
def checkMmuOn (w : Word) (s : State) : Progress :=
  if mmuReport s then .running (takeMmuReport s)
  else stopWith (.preconditionViolation .mmuReportsDisabled) w (takeMmuReport s)

/-- COMMIT's cache step and cache self-check under a policy (R85). -/
def driveCaches (w : Word) (pol : Policy) (s : State) : Progress :=
  match cacheTarget pol with
  | none => .running s
  | some (i, d) =>
    let s := hwWrite (.cacheEnable i d) s
    if cacheReport s = (i, d) then .running (takeCacheReport s)
    else stopWith (.preconditionViolation (.cachesDiffer (cacheReport s).1 (cacheReport s).2)) w
      (takeCacheReport s)

/-- COMMIT's last two steps (R85). -/
def markMapped (s : State) : State :=
  { s with life := .mapped, layout := { s.layout with committed := .committed } }

/-- COMMIT's steps before the pin loop: policy, leading Barrier, `pins_used <- 0` (R85). -/
def beginCommit (pol : Policy) (s : State) : State :=
  let s := emit .barrier { s with slots := applyPolicy pol s.slots }
  { s with layout := { s.layout with pinsUsed := 0 } }

/-- COMMIT after its `S.init` guard, in a command with word `w` (R85). -/
def commitBody (P : Params) (w : Word) (pol : Policy) (s : State) : Progress :=
  if s.life = .mapped then stopWith (.preconditionViolation .commitWhileMapped) w s
  else
    andThen (checkSlots w s) fun s =>
    andThen (pinSlots P w slotOrder (beginCommit pol s)) fun s =>
    andThen (checkMmuOn w (driveMapping P s)) fun s =>
    andThen (driveCaches w pol s) fun s =>
    .running (markMapped s)

/-- COMMIT with its `S.init` guard (R85). -/
def commitWith (P : Params) (w : Word) (pol : Policy) (s : State) : Progress :=
  if s.init then commitBody P w pol s else stopWith (.preconditionViolation .beforeInit) w s

/-- COMMIT (R85). The reserved POL code is IllegalCommand reason 4 (R59; log entry 10). -/
def execCommit (pol : BitVec 2) (s : State) : Host.Outcome State Fault Refusal :=
  let w := encodeWord (.commit pol)
  match policyOf pol with
  | none => finish (stopWith (.illegalCommand .reservedPolicy) w s)
  | some p => finish (commitWith Config.params w p s)

/-! ## DISABLE -/

/-- DISABLE's hardware steps after its guard (R86). -/
def driveMmuOff (s : State) : State :=
  emit .barrier (emit .tlbSync (hwWrite (.mmuEnable false) (emit .barrier s)))

/-- DISABLE after its guard, in a command with word `w` (R86). -/
def disableBody (w : Word) (s : State) : Progress :=
  let s := driveMmuOff s
  if mmuReport s then stopWith (.preconditionViolation .mmuReportsEnabled) w (takeMmuReport s)
  else .running (unmapAll (takeMmuReport s))

/-- DISABLE (R86). -/
def execDisable (s : State) : Host.Outcome State Fault Refusal :=
  finish (if s.life = .mapped then disableBody (encodeWord .disable) s
    else stopWith (.preconditionViolation .disableWhileDisabled) (encodeWord .disable) s)

/-! ## REMAP -/

/-- REMAP: the disable half only when Mapped (90_conflicts.md C1), then COMMIT's body (R87). -/
def remapWith (P : Params) (w : Word) (pol : Policy) (s : State) : Progress :=
  if s.init then
    andThen (if s.life = .mapped then disableBody w s else .running s) fun s => commitBody P w pol s
  else stopWith (.preconditionViolation .beforeInit) w s

/-- REMAP (R87). The reserved POL code is IllegalCommand reason 4 (R59; log entry 10). -/
def execRemap (pol : BitVec 2) (s : State) : Host.Outcome State Fault Refusal :=
  let w := encodeWord (.remap pol)
  match policyOf pol with
  | none => finish (stopWith (.illegalCommand .reservedPolicy) w s)
  | some p => finish (remapWith Config.params w p s)

end Sys2Proof.Machine
end

