-- ==== Sys2Proof/Machine/SectionPin.lean ====
section
/-! DEFINITION. The section-descriptor commands SETSEC, ENCODE and PIN (40_section_pin.md R74 to R76). Each body
takes the OPEN parameters as an argument; the meaning applies it to the machine's own. -/

namespace Sys2Proof.Machine

/-- The descriptor of a format-D command: its fields, and the address in OPA (R55, R57). -/
def operandDescriptor (gr : BitVec 1) (dom : BitVec 8) (perm : BitVec 2) (attr : BitVec 3) (s : State) :
    Descriptor :=
  ⟨s.opa, gr, dom, perm, attr⟩

/-- SETSEC's body for a named slot, in a command with word `w` (R74). -/
def loadSlot (P : Params) (w : Word) (n : SlotName) (d : Descriptor) (s : State) : Progress :=
  if s.life = .mapped then stopWith (.preconditionViolation (.setsecWhileMapped n)) w s
  else if !aligned d.addr d.gr then stopWith (.alignmentViolation d.addr d.gr) w s
  else if !domOk P.ssDomainPolicy d.dom d.gr then stopWith (.illegalDomain d.dom d.gr) w s
  else .running { s with slots := slotPut s.slots n ⟨true, d⟩ }

/-- ENCODE's body, in a command with word `w` (R75). -/
def encodeOnly (P : Params) (w : Word) (d : Descriptor) (s : State) : Progress :=
  if aligned d.addr d.gr then
    match encodeChecked P d with
    | .error e => stopWith e w s
    | .ok p => .running { s with enc := p }
  else stopWith (.alignmentViolation d.addr d.gr) w s

/-- PIN's body, in a command with word `w` (R76). -/
def pinOnly (P : Params) (w : Word) (d : Descriptor) (s : State) : Progress :=
  if s.init then pinCommit P w d (emit .barrier s)
  else stopWith (.preconditionViolation .beforeInit) w s

/-- SETSEC (R74). An illegal SLOT code is IllegalCommand reason 3 (R59; log entry 10). -/
def execSetsec (slot : BitVec 3) (gr : BitVec 1) (dom : BitVec 8) (perm : BitVec 2) (attr : BitVec 3)
    (s : State) : Host.Outcome State Fault Refusal :=
  let w := encodeWord (.setsec slot gr dom perm attr)
  match slotOf slot with
  | none => finish (stopWith (.illegalCommand .badSlot) w s)
  | some n => finish (loadSlot Config.params w n (operandDescriptor gr dom perm attr s) s)

/-- ENCODE (R75). -/
def execEncode (gr : BitVec 1) (dom : BitVec 8) (perm : BitVec 2) (attr : BitVec 3) (s : State) :
    Host.Outcome State Fault Refusal :=
  finish (encodeOnly Config.params (encodeWord (.encode gr dom perm attr))
    (operandDescriptor gr dom perm attr s) s)

/-- PIN (R76). -/
def execPin (gr : BitVec 1) (dom : BitVec 8) (perm : BitVec 2) (attr : BitVec 3) (s : State) :
    Host.Outcome State Fault Refusal :=
  finish (pinOnly Config.params (encodeWord (.pin gr dom perm attr))
    (operandDescriptor gr dom perm attr s) s)

end Sys2Proof.Machine
end

