-- ==== Sys2Proof/Machine/Dispatch.lean ====
section
/-! DEFINITION. One arm per command, each a direct call of the command's meaning. -/

namespace Sys2Proof.Machine

def exec (i : Instr) (s : State) : Host.Outcome State Fault Refusal :=
  match i with
  | .init => Sys2Proof.Machine.execInit s
  | .setsec slot gr dom perm attr => Sys2Proof.Machine.execSetsec slot gr dom perm attr s
  | .encode gr dom perm attr => Sys2Proof.Machine.execEncode gr dom perm attr s
  | .pin gr dom perm attr => Sys2Proof.Machine.execPin gr dom perm attr s
  | .daccalc => Sys2Proof.Machine.execDaccalc s
  | .dacset => Sys2Proof.Machine.execDacset s
  | .commit pol => Sys2Proof.Machine.execCommit pol s
  | .disable => Sys2Proof.Machine.execDisable s
  | .remap pol => Sys2Proof.Machine.execRemap pol s

end Sys2Proof.Machine
end

