-- ==== Sys2Proof/Machine/Registers.lean ====
section
/-! DEFINITION. What a host read of the register window returns, offset by offset (R12, R13, R28). -/

namespace Sys2Proof.Machine

/-- Word `k` of a pin in the register order LVA, LPA, LATTR, reserved (R12). -/
def pinWord (p : Pin) (k : Nat) : Word :=
  match k with
  | 0 => p.lva
  | 1 => p.lpa
  | 2 => p.lattr
  | _ => 0

/-- The registers `PIN<i>_*` at 0x040 + 0x10·i; `n` is the offset from 0x040 (R12). -/
def readPinFile (s : State) (n : Nat) : Word :=
  if h : n / 0x10 < 8 then pinWord s.hw[n / 0x10] (n % 0x10 / 4) else 0

/-- The registers `SLOT<s>_ADDR` and `SLOT<s>_CFG` at 0x100 + 8·s; `n` is the offset from 0x100 (R12, R28). -/
def readSlotFile (s : State) (n : Nat) : Word :=
  match slotOrder[n / 8]? with
  | none => 0
  | some name => if n % 8 = 0 then (slotAt s.slots name).sec.addr else slotCfg (slotAt s.slots name).sec

/-- The register at a word offset of the window; reserved offsets and CMD read 0 (R12, R13). -/
def readRegister (s : State) (offset : Nat) : Word :=
  match offset with
  | 0x004 => s.opa
  | 0x008 => statusWord s
  | 0x00C => zext s.err.code
  | 0x010 => s.err.cmd
  | 0x014 => s.err.op0
  | 0x018 => s.err.op1
  | 0x01C => s.dacr
  | 0x020 => s.dacResult
  | 0x024 => s.enc.lva
  | 0x028 => s.enc.lpa
  | 0x02C => s.enc.lattr
  | 0x030 => layoutInfo s.layout
  | 0x034 => s.layout.domAccum
  | 0x038 => pinValidWord s
  | 0x03C => zext s.asid
  | n =>
    if 0x040 ≤ n ∧ n < 0x0C0 then readPinFile s (n - 0x040)
    else if 0x100 ≤ n ∧ n < 0x128 then readSlotFile s (n - 0x100)
    else 0

/-- Byte lane `k` of the register at an offset: lane 0 is bits 7 to 0 (R40). -/
def registerLane (s : State) (offset k : Nat) : Byte := byteLane (readRegister s offset) k

end Sys2Proof.Machine
end

