-- ==== Sys2Proof/Machine/HostPort.lean ====
section
/-! DEFINITION. The host port: one host access or reset event at a time (R13 to R15, R41, R42, R101), which is all
that makes the block move (R16). -/

namespace Sys2Proof.Machine

/-- A host write of a word to CMD: ignored while halted, IllegalCommand for an illegal word, else the command
(R15, R59, R60). -/
def issueCommand (w : Word) (s : State) : Host.Outcome State Fault Refusal :=
  if s.halted then .next s
  else
    match decode w with
    | .ok i => exec i s
    | .error e => .next (raiseError (.illegalCommand e) w s)

/-- An admitted host write (R13, R14, R15). -/
def hostWrite (offset : Nat) (v : Word) (s : State) : Host.Outcome State Fault Refusal :=
  if offset = 0x000 then issueCommand v s
  else if offset = 0x004 then .next { s with opa := v }
  else .next s

/-- An admitted host read: it changes no block state (R13); the value goes to the host (log entry 3). -/
def hostRead (offset : Nat) (s : State) : State := { s with readData := readRegister s offset }

/-- Which host accesses the block admits: 32 bits wide, at a multiple of 4 (R41). -/
def admitted (bytes offset : Nat) : Bool := decide (bytes = 4) && decide (offset % 4 = 0)

/-- The lockdown entry `i` drawn by a reset event (R37, U1; log entry 6). -/
def drawnPin (draw : Nat) (i : Fin 8) : Pin :=
  ⟨Config.resetPinWord draw i.val 0, Config.resetPinWord draw i.val 1, Config.resetPinWord draw i.val 2⟩

/-- The reset event (R101): every piece of block state at its value of R37, the three unspecified ones drawn
afresh; the inputs still to come stay (log entry 6). -/
def resetBlock (s : State) : State :=
  { State.reset with
    hw := Vector.ofFn (drawnPin s.draws)
    dacr := Config.resetDacr s.draws
    asid := Config.resetAsid s.draws
    host := s.host
    readData := s.readData
    mmuReports := s.mmuReports
    cacheReports := s.cacheReports
    draws := s.draws + 1 }

/-- An access at `offset` that passes the port's checks runs `act` (R12, R41; log entry 12). -/
def portAccess (bytes offset : Nat) (act : Host.Outcome State Fault Refusal) :
    Host.Outcome State Fault Refusal :=
  if !admitted bytes offset then .refused (.unadmittedAccess bytes offset)
  else if 0x200 ≤ offset then .fault (.outsideWindow offset)
  else act

/-- One move of the host, or a reset event (R104). -/
def hostMove (m : HostMove) (s : State) : Host.Outcome State Fault Refusal :=
  match m with
  | .write bytes offset v => portAccess bytes offset (hostWrite offset v s)
  | .read bytes offset => portAccess bytes offset (.next (hostRead offset s))
  | .reset => .next (resetBlock s)

/-- The machine's one move: the next pending host move, or none, and then nothing changes (R16; log entry 2). -/
def moveOnce (s : State) : Host.Outcome State Fault Refusal :=
  match s.host with
  | [] => .next s
  | m :: rest => hostMove m { s with host := rest }

/-- The host is about to write `w` to CMD. -/
def placeCommand (w : Word) (s : State) : State := { s with host := .write 4 0x000 w :: s.host }

/-- The processor address of a register, under `PINMMU_BASE` (R38, U8). -/
def registerAddress (P : Params) (offset : Nat) : Word := P.pinmmuBase + BitVec.ofNat 32 offset

/-- The window offset of a processor address, if it lies in the window (R38; log entry 16). -/
def windowOffset (P : Params) (addr : Word) : Option Nat :=
  if (addr - P.pinmmuBase).toNat < 0x200 then some (addr - P.pinmmuBase).toNat else none

end Sys2Proof.Machine
end

