-- ==== Sys2Proof/Machine/Step.lean ====
section
/-! DEFINITION. One step of the machine, and where the next command is placed. The block fetches nothing (R16,
R51): its next command is the next host write to CMD. -/

namespace Sys2Proof.Machine

/-- One step: the next host move, if there is one (R15, R16). -/
def step (s : State) : Host.Outcome State Fault Refusal := moveOnce s

/-- `s` with a host write of the command word to CMD as its next move (log entry 2). Every command is one 32-bit
word (R61). -/
def State.withFetchWord (s : State) (nbits w : Nat) : State :=
  placeCommand (BitVec.ofNat 32 (w % 2 ^ min nbits 32)) s

end Sys2Proof.Machine
end

