-- ==== Sys2Proof/Machine/Assembler.lean ====
section
/-! DEFINITION. The assembler statements and pseudo-instructions as host writes (R62 to R65). A statement is read
from the tokens of one line: commas and angle or square brackets are not tokens (log entry 20). -/

namespace Sys2Proof.Machine

/-- A token of a line: a word, a number, or `#n` (R62). -/
inductive Token where
  | word (s : String)
  | num (n : Nat)
  | hash (n : Nat)
  deriving DecidableEq, Repr

/-- An assembler statement, its operands already field codes (R62). -/
inductive AsmStatement where
  | init
  | setsec (slot : BitVec 3) (addr : Word) (gran : BitVec 1) (dom : BitVec 8) (perm : BitVec 2) (attr : BitVec 3)
  | encode (addr : Word) (gran : BitVec 1) (dom : BitVec 8) (perm : BitVec 2) (attr : BitVec 3)
  | pin (addr : Word) (gran : BitVec 1) (dom : BitVec 8) (perm : BitVec 2) (attr : BitVec 3)
  | daccalc
  | dacset (value : Word)
  | commit (pol : BitVec 2)
  | disable
  | remap (pol : BitVec 2)
  deriving DecidableEq, Repr

/-- The pseudo-instructions (R63 to R65). -/
inductive Pseudo where
  | setsecKernel (slot : BitVec 3) (addr : Word) (dom : BitVec 8)
  | setsecDevice (slot : BitVec 3) (addr : Word)
  | layoutDefault (kdom idom hdom : BitVec 8) (heap dev : Word)
  deriving DecidableEq, Repr

/-- A number of at most `n` bits. -/
def number (n k : Nat) : Option (BitVec n) := if k < 2 ^ n then some (BitVec.ofNat n k) else none

/-- `<slot>` (R62). -/
def slotToken : Token → Option (BitVec 3)
  | .word s =>
    if s = "code" then some 0 else if s = "stack" then some 1 else if s = "istack" then some 2
    else if s = "heap" then some 3 else if s = "device" then some 4 else none
  | .hash n => number 3 n
  | .num _ => none

/-- `<addr>` and `<value>` (R62). -/
def wordToken : Token → Option Word
  | .num n => number 32 n
  | _ => none

/-- `<gran>` (R62). -/
def granToken : Token → Option (BitVec 1)
  | .word s => if s = "1M" then some 0 else if s = "16M" then some 1 else none
  | _ => none

/-- `<dom>` (R62). -/
def domToken : Token → Option (BitVec 8)
  | .num n => number 8 n
  | _ => none

/-- `<perm>` (R62). -/
def permToken : Token → Option (BitVec 2)
  | .word s => if s = "priv" then some 0 else if s = "user" then some 1 else none
  | .hash n => number 2 n
  | .num _ => none

/-- `<attr>` (R62). -/
def attrToken : Token → Option (BitVec 3)
  | .word s =>
    if s = "so" then some 0 else if s = "sdev" then some 1 else if s = "unc" then some 2
    else if s = "wba" then some 3 else if s = "wbna" then some 4 else if s = "wtna" then some 5 else none
  | .hash n => number 3 n
  | .num _ => none

/-- `[<policy>]`, AS_IS by default (R62). -/
def policyTokens : List Token → Option (BitVec 2)
  | [] => some 0
  | [.word s] =>
    if s = "asis" then some 0 else if s = "cached" then some 1 else if s = "uncached" then some 2 else none
  | _ => none

/-- The operands `<addr>, <gran>, <dom>, <perm>, <attr>`, given to `k` (R62). -/
def sectionTokens (ts : List Token)
    (k : Word → BitVec 1 → BitVec 8 → BitVec 2 → BitVec 3 → AsmStatement) : Option AsmStatement :=
  match ts with
  | [a, g, d, p, t] => do
    return k (← wordToken a) (← granToken g) (← domToken d) (← permToken p) (← attrToken t)
  | _ => none

/-- The statement of a line (R62); `none` where the line has no form of R62. -/
def parseLine : List Token → Option AsmStatement
  | .word m :: ts =>
    if m = "INIT" then (if ts = [] then some .init else none)
    else if m = "SETSEC" then
      match ts with
      | n :: rest => do sectionTokens rest (AsmStatement.setsec (← slotToken n))
      | [] => none
    else if m = "ENCODE" then sectionTokens ts .encode
    else if m = "PIN" then sectionTokens ts .pin
    else if m = "DACCALC" then (if ts = [] then some .daccalc else none)
    else if m = "DACSET" then
      match ts with
      | [v] => (wordToken v).map .dacset
      | _ => none
    else if m = "COMMIT" then (policyTokens ts).map .commit
    else if m = "DISABLE" then (if ts = [] then some .disable else none)
    else if m = "REMAP" then (policyTokens ts).map .remap
    else none
  | _ => none

/-- The command of a statement (R62). -/
def asmCommand : AsmStatement → Instr
  | .init => .init
  | .setsec n _ g d p t => .setsec n g d p t
  | .encode _ g d p t => .encode g d p t
  | .pin _ g d p t => .pin g d p t
  | .daccalc => .daccalc
  | .dacset _ => .dacset
  | .commit pol => .commit pol
  | .disable => .disable
  | .remap pol => .remap pol

/-- The value a statement writes to OPA first, if it has an `<addr>` or `<value>` operand (R62). -/
def asmOperand : AsmStatement → Option Word
  | .setsec _ a _ _ _ _ => some a
  | .encode a _ _ _ _ => some a
  | .pin a _ _ _ _ => some a
  | .dacset v => some v
  | .init => none
  | .daccalc => none
  | .commit _ => none
  | .disable => none
  | .remap _ => none

/-- The one or two host writes a statement stands for (R62). -/
def asmMoves (a : AsmStatement) : List HostMove :=
  let cmd := HostMove.write 4 0x000 (encodeWord (asmCommand a))
  match asmOperand a with
  | some v => [.write 4 0x004 v, cmd]
  | none => [cmd]

/-- `SETSEC.KERNEL <slot>, <addr>, <dom>`: 1M, priv, unc (R63). -/
def kernelSection (slot : BitVec 3) (addr : Word) (dom : BitVec 8) : AsmStatement :=
  .setsec slot addr 0 dom 0 2

/-- `SETSEC.DEVICE <slot>, <addr>`: 16M, domain 0, priv, so (R64). -/
def deviceSection (slot : BitVec 3) (addr : Word) : AsmStatement := .setsec slot addr 1 0 0 0

/-- The statements a pseudo-instruction expands to (R63 to R65). -/
def expandPseudo (P : Params) : Pseudo → List AsmStatement
  | .setsecKernel slot addr dom => [kernelSection slot addr dom]
  | .setsecDevice slot addr => [deviceSection slot addr]
  | .layoutDefault kdom idom hdom heap dev =>
    [kernelSection 0 P.codeBase kdom, kernelSection 1 P.stackBase kdom, kernelSection 2 P.istackBase idom,
      kernelSection 3 heap hdom, deviceSection 4 dev]

end Sys2Proof.Machine
end

