-- ==== Sys2Proof/Machine/Translate.lean ====
section
/-! DEFINITION. What the processor's MMU makes of an access, as a function of the block's record of it (R44, R45).
The spec gives this as context outside the block (R4); no command reads it, and it rests on general knowledge
(PRESUMED, log entry 15). Where no rule gives the outcome it is a free value, one per `draw`. -/

namespace Sys2Proof.Machine

/-- One processor memory access: its address, and whether it is privileged (R45). -/
structure Access where
  addr       : Word
  privileged : Bool
  deriving DecidableEq, Repr

/-- The size in bytes of an entry, from SZ = `lpa[7:6]` (R44, R69). -/
def entrySize (p : Pin) : Nat :=
  if p.lpa.extractLsb' 6 2 = 0b11 then 0x00100000
  else if p.lpa.extractLsb' 6 2 = 0b00 then 0x01000000
  else Config.otherSize (p.lpa.extractLsb' 6 2)

/-- `lva[31:12] << 12`, the base of the range an entry covers (R44). -/
def entryBase (p : Pin) : Word := p.lva &&& 0xFFFFF000

/-- The three conditions of a match: hardware-valid, in range, global or the current ASID (R44). -/
def entryMatches (asid : BitVec 8) (p : Pin) (a : Word) : Bool :=
  hardwareValid p
    && decide ((entryBase p).toNat ≤ a.toNat ∧ a.toNat < (entryBase p).toNat + entrySize p)
    && (p.lva.getLsbD 9 || p.lva.extractLsb' 0 8 == asid)

/-- `(lpa[31:12] << 12) | (a & (size - 1))` (R44). -/
def physicalAddress (p : Pin) (a : Word) : Word :=
  (p.lpa &&& 0xFFFFF000) ||| (a &&& BitVec.ofNat 32 (entrySize p - 1))

/-- The domain of an entry, `lattr[10:7]` (R45, R69). -/
def entryDomain (p : Pin) : BitVec 4 := p.lattr.extractLsb' 7 4

/-- The check of a client access against APX:AP (R45, R70). -/
def clientCheck (draw : Nat) (p : Pin) (x : Access) : AccessOutcome :=
  if p.lpa.extractLsb' 1 3 = 0b001 then
    if x.privileged then .physical (physicalAddress p x.addr) else .permissionFault
  else if p.lpa.extractLsb' 1 3 = 0b011 then .physical (physicalAddress p x.addr)
  else Config.otherPermissionOutcome draw x.addr

/-- The check of an access to a matching entry against the DACR mode of its domain (R45). -/
def domainCheck (draw : Nat) (dacr : Word) (p : Pin) (x : Access) : AccessOutcome :=
  match (domainMode dacr (entryDomain p)).toNat with
  | 0b00 => .domainFault
  | 0b01 => clientCheck draw p x
  | 0b11 => .physical (physicalAddress p x.addr)
  | _ => Config.reservedModeOutcome draw x.addr

/-- The hardware-valid entries that match an access (R44). -/
def matchingEntries (s : State) (a : Word) : List Pin :=
  s.hw.toList.filter fun p => entryMatches s.asid p a

/-- The outcome of an access (R44, R45); `draw` names the access for the free values. -/
def translate (draw : Nat) (s : State) (x : Access) : AccessOutcome :=
  if s.mmuEn then
    match matchingEntries s x.addr with
    | [] => Config.missOutcome draw x.addr
    | [p] => domainCheck draw s.dacr p x
    | _ => Config.multipleMatchOutcome draw x.addr
  else .untranslated

end Sys2Proof.Machine
end

