-- ==== Sys2Proof/Safety.lean ====
section
/-! DEFINITION. The terms claims are made in: what a faulted run is (R93), the invariants of R36, what the history
says of the processor (R22 to R25, R31), and the bracketing of hardware writes by barriers (R47). -/

namespace Sys2Proof.Safety

open Sys2Proof.Machine

/-- A halted state is never final: a run that reaches it has faulted (R93, U21). Whether it still has after a reset
is left open there (log entry 24). -/
def Faulted (s : State) : Prop := s.halted = true

/-- A run that has ended well: no host move is left and the block is not halted (R93). DESIGN CHOICE, unsafe (log
entry 24): it reads the end state alone, so a run that halted and was then reset counts as ended well; R93 does not
say whether a reset starts a new run. -/
def Finished (s : State) : Prop := s.host = [] ∧ s.halted = false

/-- The next move is the reset event (R101). -/
def ResetNext (s : State) : Prop := ∃ rest, s.host = .reset :: rest

/-! ## Invariants of R36 -/

/-- A loaded slot is aligned and has a legal domain number (R36 (d)). -/
def SlotSound (v : Slot) : Prop :=
  v.valid = true → aligned v.sec.addr v.sec.gr = true ∧ v.sec.dom.toNat < 16

/-- All five slots are loaded. -/
def AllLoaded (f : Slots) : Prop := ∀ n, (slotAt f n).valid = true

/-- Every lockdown entry has been written in this history (R36 (e)). -/
def EveryPinWritten (es : List Event) : Prop := ∀ i : Fin 8, ∃ p, Event.pinWrite i p ∈ es

/-- The invariants of R36 but (f), with what R20, R26, R29 and R84 add. -/
structure BlockInv (s : State) : Prop where
  /-- R36 (c). -/
  next_le : s.next ≤ 8
  /-- R29. -/
  pinsUsed_le : s.layout.pinsUsed ≤ 5
  /-- R36 (d). -/
  slots_sound : ∀ n, SlotSound (slotAt s.slots n)
  /-- R36 (e). -/
  pins_written : s.init = true → EveryPinWritten s.events
  /-- R84: the MMU is off whenever the block is not initialized. -/
  off_before_init : s.init = false → s.mmuEn = false
  /-- R36 (a). -/
  committed_iff : s.halted = false → (s.layout.committed = .committed ↔ s.life = .mapped)
  /-- R36 (b). -/
  mapped_sound : s.halted = false → s.life = .mapped →
    s.init = true ∧ s.mmuEn = true ∧ AllLoaded s.slots ∧ s.layout.pinsUsed = 5
  /-- R29: the accumulated domain value of a live layout is that of its slots. -/
  mapped_mask : s.halted = false → s.life = .mapped → s.layout.domAccum = dacCompute s.slots
  /-- R26: no record before the first error. -/
  no_record : s.halted = false → s.err = ErrRecord.none
  /-- R90: a halted block's last event is Fatal with its record. -/
  halted_record : s.halted = true → s.events.getLast? = some (.fatal s.err)

/-! ## The history and the processor -/

/-- What the block records of the processor (R22 to R25, R31). -/
structure Mirrors where
  hw    : Vector Pin 8
  dacr  : Word
  asid  : BitVec 8
  mmuEn : Bool
  icEn  : Bool
  dcEn  : Bool
  deriving DecidableEq, Repr

/-- The record in a state. -/
def mirrorsOf (s : State) : Mirrors := ⟨s.hw, s.dacr, s.asid, s.mmuEn, s.icEn, s.dcEn⟩

/-- What performing one event changes (R33). -/
def performEvent (m : Mirrors) : Event → Mirrors
  | .pinWrite i p => { m with hw := m.hw.set i p }
  | .dacrWrite v => { m with dacr := v }
  | .asidWrite a => { m with asid := a }
  | .mmuEnable b => { m with mmuEn := b }
  | .cacheEnable i d => { m with icEn := i, dcEn := d }
  | .cacheInvalidateAll => m
  | .tlbInvalidateAll => m
  | .tlbSync => m
  | .barrier => m
  | .fatal _ => m

/-- Performing a history in order (R46). -/
def perform (m : Mirrors) (es : List Event) : Mirrors := es.foldl performEvent m

/-! ## Barriers -/

/-- The five processor writes (R47). -/
def isProcessorWrite : Event → Bool
  | .pinWrite _ _ => true
  | .dacrWrite _ => true
  | .asidWrite _ => true
  | .mmuEnable _ => true
  | .cacheEnable _ _ => true
  | .cacheInvalidateAll => false
  | .tlbInvalidateAll => false
  | .tlbSync => false
  | .barrier => false
  | .fatal _ => false

/-- Every processor write has a Barrier right before and right after it; `b` says whether a Barrier stands right
before the list (R47). -/
def bracketedFrom (b : Bool) : List Event → Bool
  | [] => true
  | e :: es =>
    (!isProcessorWrite e || (b && es.head? == some .barrier)) && bracketedFrom (e == .barrier) es

/-- The history brackets every processor write (R47). -/
def Bracketed (es : List Event) : Prop := bracketedFrom false es = true

/-- The processor writes that no later Barrier covers, oldest first: not yet known to be in effect (R48). -/
def pendingWrites (es : List Event) : List Event :=
  es.foldl (fun p e => if e = .barrier then [] else if isProcessorWrite e then p ++ [e] else p) []

end Sys2Proof.Safety
end

