-- ==== Sys2Proof/Certificates/Slice0/Obligations.lean ====
section
/-! DEFINITION. The statements about the model, from the numbered rules of spec/. The helpers under
`Sys2Proof.Claims` say what a statement expects in the spec's own numbers, without the operations of the model. -/

namespace Sys2Proof.Claims

open Sys2Proof.Machine Sys2Proof.Safety

/-- The state R90 demands after `raise` with this code and these operands in a command with word `w`. -/
def halts (code : BitVec 4) (w op0 op1 : Word) (s : State) : State :=
  { s with
    err := ⟨code, w, op0, op1⟩
    halted := true
    events := s.events ++ [.fatal ⟨code, w, op0, op1⟩] }

/-- The must-be-0 bits of the format of an opcode (R54, R55, R56). -/
def mustBeZero (op : Nat) : Word :=
  if op = 1 ∨ op = 5 ∨ op = 6 ∨ op = 8 then 0x0FFFFFFF
  else if op = 2 ∨ op = 3 ∨ op = 4 then 0x000007FF
  else 0x03FFFFFF

/-- Slot `n` is the lowest slot that is not loaded. -/
def LowestUnloaded (f : Slots) (n : SlotName) : Prop :=
  (slotAt f n).valid = false ∧ ∀ m, slotIndex m < slotIndex n → (slotAt f m).valid = true

/-- The descriptor is aligned and the encoder gives this pin for it (R72). -/
def Encodes (d : Descriptor) (p : Pin) : Prop :=
  aligned d.addr d.gr = true ∧ encodeChecked Config.params d = .ok p

/-- Five entries from index `k` replaced by the layout's pins, in slot order (R85). -/
def pinsAt (hw : Vector Pin 8) (k : Nat) (h : k ≤ 3) (pins : SlotName → Pin) : Vector Pin 8 :=
  ((((hw.set k (pins .code)).set (k + 1) (pins .stack)).set (k + 2) (pins .istack)).set (k + 3)
    (pins .heap)).set (k + 4) (pins .device)

/-- The pin events of a layout from index `k` (R85). -/
def pinEvents (k : Nat) (h : k ≤ 3) (pins : SlotName → Pin) : List Event :=
  [.pinWrite ⟨k, by omega⟩ (pins .code), .barrier, .pinWrite ⟨k + 1, by omega⟩ (pins .stack), .barrier,
    .pinWrite ⟨k + 2, by omega⟩ (pins .istack), .barrier, .pinWrite ⟨k + 3, by omega⟩ (pins .heap), .barrier,
    .pinWrite ⟨k + 4, by omega⟩ (pins .device), .barrier]

/-- The events that make a mapping live: DACR, ASID, MMU (R85). -/
def driveEvents (v : Word) : List Event :=
  [.dacrWrite v, .barrier, .asidWrite Config.params.fixedAsid, .barrier, .mmuEnable true, .barrier]

/-- The cache step's events under a policy (R85). -/
def cacheEvents (pol : Policy) : List Event :=
  match cacheTarget pol with
  | none => []
  | some (i, d) => [.cacheEnable i d, .barrier]

/-- The caches will report what the policy requests, where it requests anything (R85). -/
def CachesAgree (pol : Policy) (s : State) : Prop :=
  ∀ t, cacheTarget pol = some t → cacheReport s = t

/-- The inputs left after the self-checks of a COMMIT with this policy. -/
def reportsTaken (pol : Policy) (s : State) : State :=
  match cacheTarget pol with
  | none => takeMmuReport s
  | some _ => takeCacheReport (takeMmuReport s)

/-- The events of DISABLE's body (R86). -/
def disableEvents : List Event := [.barrier, .mmuEnable false, .barrier, .tlbSync, .barrier]

/-- The end of a COMMIT that pinned the layout of `s` from index `k`, after the history `es` (R85): `inputs` says
which environment answers are left. -/
def mappedState (pol : Policy) (pins : SlotName → Pin) (k : Nat) (h : k ≤ 3) (es : List Event)
    (inputs s : State) : State :=
  { s with
    life := .mapped
    slots := applyPolicy pol s.slots
    layout := ⟨.committed, 5, dacCompute s.slots⟩
    next := k + 5
    hw := pinsAt s.hw k h pins
    dacr := dacCompute s.slots
    asid := Config.params.fixedAsid
    mmuEn := true
    icEn := ((cacheTarget pol).map (·.1)).getD s.icEn
    dcEn := ((cacheTarget pol).map (·.2)).getD s.dcEn
    events := es ++ [.barrier] ++ pinEvents k h pins ++ driveEvents (dacCompute s.slots) ++ cacheEvents pol
    mmuReports := inputs.mmuReports
    cacheReports := inputs.cacheReports
    draws := inputs.draws }

/-- COMMIT can pin the slots under a policy: every slot loaded, and each one encodes to its pin (R85). -/
def LayoutEncodes (pol : Policy) (f : Slots) (pins : SlotName → Pin) : Prop :=
  AllLoaded f ∧ ∀ n, Encodes (slotAt (applyPolicy pol f) n).sec (pins n)

/-- `pin_commit` refuses the descriptor with InvalidPermission and these operands: an illegal permission code, or,
behind a legal permission and domain, an illegal attribute code (R68, R73). -/
def RefusedCode (d : Descriptor) (op0 op1 : Word) : Prop :=
  (permOf d.perm = none ∧ op0 = d.perm.setWidth 32 ∧ op1 = 0) ∨
  (permOf d.perm ≠ none ∧ domOk Config.params.ssDomainPolicy d.dom d.gr = true ∧ attrOf d.attr = none ∧
    op0 = d.attr.setWidth 32 ∧ op1 = 1)

/-- The state after DISABLE's body when the MMU reports off (R83, R86). -/
def disabledState (s : State) : State :=
  { takeMmuReport s with
    mmuEn := false
    events := s.events ++ disableEvents
    life := .disabled
    next := 0
    layout := ⟨.uninitialized, 0, 0⟩ }

/-- A word offset that R12 reserves. -/
def ReservedOffset (n : Nat) : Prop :=
  n < 0x200 ∧ n % 4 = 0 ∧
    ((0x040 ≤ n ∧ n < 0x0C0 ∧ n % 0x10 = 0x0C) ∨ (0x0C0 ≤ n ∧ n < 0x100) ∨ 0x128 ≤ n)

end Sys2Proof.Claims

open Sys2Proof Sys2Proof.Machine Sys2Proof.Safety Sys2Proof.Claims

/-! ## Encoding -/

/-- R54 to R58: the word of a well-formed command decodes to it, for every value of every field. -/
def Obligations.DecodeOfEncode : Prop :=
  ∀ i : Instr, i.wellFormed = true → decode (encodeWord i) = .ok i

/-- R58, R59: a word that decodes is the word of exactly the command it decodes to, and that command is
well-formed, so the word recorded in ERR_CMD is the word written to CMD. -/
def Obligations.EncodeOfDecode : Prop :=
  ∀ (w : Word) (i : Instr), decode w = .ok i → i.wellFormed = true ∧ encodeWord i = w

/-- R58: words of 95_test_vectors.md and the commands they stand for, one per opcode. -/
def Obligations.SpecWordsDecode : Prop :=
  decode 0x10000000 = .ok .init ∧
  decode 0x26041000 = .ok (.setsec 3 0 4 0 2) ∧
  decode 0x30055800 = .ok (.encode 0 5 1 3) ∧
  decode 0x4001B000 = .ok (.pin 0 1 2 6) ∧
  decode 0x50000000 = .ok .daccalc ∧
  decode 0x60000000 = .ok .dacset ∧
  decode 0x74000000 = .ok (.commit 1) ∧
  decode 0x80000000 = .ok .disable ∧
  decode 0x98000000 = .ok (.remap 2)

/-- R59: the checks in their order, each with its reason, and the error they raise; a halted block decodes
nothing. -/
def Obligations.IllegalWordsRaiseInOrder : Prop :=
  ∀ (s : State) (w : Word) (rest : List HostMove), s.host = .write 4 0x000 w :: rest →
    let op := w.toNat / 2 ^ 28
    let slot := w.toNat / 2 ^ 25 % 8
    let pol := w.toNat / 2 ^ 26 % 4
    let s' := { s with host := rest }
    if s.halted = true then step s = .next s'
    else if op = 0 ∨ 10 ≤ op then step s = .next (halts 7 w w 1 s')
    else if w &&& mustBeZero op ≠ 0 then step s = .next (halts 7 w w 2 s')
    else if (op = 2 ∧ 5 ≤ slot) ∨ ((op = 3 ∨ op = 4) ∧ slot ≠ 0) then step s = .next (halts 7 w w 3 s')
    else if (op = 7 ∨ op = 9) ∧ pol = 3 then step s = .next (halts 7 w w 4 s')
    else ∃ i, decode w = .ok i ∧ step s = exec i s'

/-- R59, R60 and log entry 10 (the model's choice): a term no word stands for raises IllegalCommand. -/
def Obligations.IllFormedTermsRaise : Prop :=
  (∀ (s : State) (slot : BitVec 3) (gr : BitVec 1) (dom : BitVec 8) (perm : BitVec 2) (attr : BitVec 3),
    5 ≤ slot.toNat → exec (.setsec slot gr dom perm attr) s =
      .next (halts 7 (encodeWord (.setsec slot gr dom perm attr)) (encodeWord (.setsec slot gr dom perm attr)) 3 s)) ∧
  (∀ s : State, exec (.commit 3) s = .next (halts 7 (encodeWord (.commit 3)) (encodeWord (.commit 3)) 4 s)) ∧
  (∀ s : State, exec (.remap 3) s = .next (halts 7 (encodeWord (.remap 3)) (encodeWord (.remap 3)) 4 s))

/-! ## The host port -/

/-- R15: a CMD write is ignored by a halted block, and otherwise runs the command its word encodes. -/
def Obligations.StepRunsDecodedCommand : Prop :=
  ∀ (s : State) (w : Word) (i : Instr) (rest : List HostMove), s.host = .write 4 0x000 w :: rest →
    decode w = .ok i →
    step s = if s.halted then .next { s with host := rest } else exec i { s with host := rest }

/-- Log entry 2 (the model's choice): without a host move nothing changes (R16). -/
def Obligations.IdleStepChangesNothing : Prop :=
  ∀ s : State, s.host = [] → step s = .next s

/-- R14: OPA is stored at any time, no command writes it, and only SETSEC, ENCODE, PIN and DACSET read it. -/
def Obligations.OpaIsPlainStorage : Prop :=
  (∀ (s : State) (v : Word) (rest : List HostMove), s.host = .write 4 0x004 v :: rest →
    step s = .next { s with host := rest, opa := v }) ∧
  (∀ (i : Instr) (s t : State), exec i s = .next t → t.opa = s.opa) ∧
  (∀ (i : Instr) (s t : State) (v : Word),
    (i = .init ∨ i = .daccalc ∨ i = .disable ∨ (∃ p, i = .commit p) ∨ ∃ p, i = .remap p) →
    exec i s = .next t → exec i { s with opa := v } = .next { t with opa := v })

/-- R13: writes elsewhere are ignored, a read changes no block state, and a reserved offset reads 0. -/
def Obligations.OtherAccessesChangeNothing : Prop :=
  (∀ (s : State) (n : Nat) (v : Word) (rest : List HostMove), s.host = .write 4 n v :: rest →
    n < 0x200 → n % 4 = 0 → n ≠ 0x000 → n ≠ 0x004 → step s = .next { s with host := rest }) ∧
  (∀ (s : State) (n : Nat) (rest : List HostMove), s.host = .read 4 n :: rest → n < 0x200 → n % 4 = 0 →
    step s = .next { s with host := rest, readData := readRegister s n }) ∧
  (∀ (s : State) (n : Nat), ReservedOffset n → readRegister s n = 0)

/-- R12: what each register of the window reads as, and the fields of LAYOUT_INFO (those of STATUS, SLOT<s>_CFG and
PINVALID have their own statements). -/
def Obligations.RegisterWindow : Prop :=
  ∀ s : State,
    readRegister s 0x000 = 0 ∧ readRegister s 0x004 = s.opa ∧ readRegister s 0x008 = statusWord s ∧
    readRegister s 0x00C = s.err.code.setWidth 32 ∧ readRegister s 0x010 = s.err.cmd ∧
    readRegister s 0x014 = s.err.op0 ∧ readRegister s 0x018 = s.err.op1 ∧ readRegister s 0x01C = s.dacr ∧
    readRegister s 0x020 = s.dacResult ∧ readRegister s 0x024 = s.enc.lva ∧ readRegister s 0x028 = s.enc.lpa ∧
    readRegister s 0x02C = s.enc.lattr ∧ readRegister s 0x030 = layoutInfo s.layout ∧
    (readRegister s 0x030).extractLsb' 0 3 = BitVec.ofNat 3 s.layout.pinsUsed ∧
    (readRegister s 0x030).getLsbD 3 = decide (s.layout.committed = .committed) ∧
    (readRegister s 0x030).extractLsb' 4 28 = 0 ∧
    readRegister s 0x034 = s.layout.domAccum ∧ readRegister s 0x038 = pinValidWord s ∧
    readRegister s 0x03C = s.asid.setWidth 32 ∧
    (∀ i : Fin 8, readRegister s (0x040 + 0x10 * i.val) = s.hw[i].lva ∧
      readRegister s (0x044 + 0x10 * i.val) = s.hw[i].lpa ∧
      readRegister s (0x048 + 0x10 * i.val) = s.hw[i].lattr) ∧
    (∀ n : SlotName, readRegister s (0x100 + 8 * slotIndex n) = (slotAt s.slots n).sec.addr ∧
      readRegister s (0x104 + 8 * slotIndex n) = slotCfg (slotAt s.slots n).sec)

/-- R17: every field of STATUS; a host write to it changes none, and no step but a CMD write or a reset does. -/
def Obligations.StatusFields : Prop :=
  ∀ s : State,
    (statusWord s).getLsbD 0 = s.init ∧ (statusWord s).getLsbD 1 = decide (s.life = .mapped) ∧
    (statusWord s).getLsbD 2 = s.halted ∧ (statusWord s).extractLsb' 3 4 = BitVec.ofNat 4 s.next ∧
    (∀ n : SlotName, (statusWord s).getLsbD (7 + slotIndex n) = (slotAt s.slots n).valid) ∧
    (statusWord s).getLsbD 12 = s.mmuEn ∧ (statusWord s).getLsbD 13 = s.icEn ∧
    (statusWord s).getLsbD 14 = s.dcEn ∧ (statusWord s).extractLsb' 15 17 = 0 ∧
    readRegister s 0x008 = statusWord s ∧
    (∀ v rest, s.host = .write 4 0x008 v :: rest → step s = .next { s with host := rest }) ∧
    ∀ t, (∀ w rest, s.host ≠ .write 4 0x000 w :: rest) → ¬ ResetNext s → step s = .next t →
      statusWord t = statusWord s

/-- R28: SLOT<s>_CFG in the field positions of a format-D word, and where the valid bit is shown. -/
def Obligations.SlotCfgFields : Prop :=
  ∀ (s : State) (n : SlotName),
    let v := readRegister s (0x104 + 8 * slotIndex n)
    let d := (slotAt s.slots n).sec
    v.extractLsb' 24 1 = d.gr ∧ v.extractLsb' 16 8 = d.dom ∧ v.extractLsb' 14 2 = d.perm ∧
    v.extractLsb' 11 3 = d.attr ∧ v.extractLsb' 0 11 = 0 ∧ v.extractLsb' 25 7 = 0 ∧
    (statusWord s).getLsbD (7 + slotIndex n) = (slotAt s.slots n).valid

/-- R12, R30: PINVALID bit i is set iff pin i is logically valid, and bits 31 to 8 are 0. -/
def Obligations.PinValidBits : Prop :=
  ∀ (s : State) (i : Nat), (pinValidWord s).getLsbD i = (decide (i < 8) && logicallyValid s i)

/-- R38, R40: a register's processor address leads back to its offset, wherever the window lies, and the register
is its four byte lanes, the lowest address holding bits 7 to 0 (log entry 16). -/
def Obligations.WindowAddressesAndLanes : Prop :=
  (∀ (P : Params) (n : Nat), n < 0x200 → windowOffset P (registerAddress P n) = some n) ∧
  (∀ (P : Params) (a : Word) (n : Nat), windowOffset P a = some n → n < 0x200 ∧ registerAddress P n = a) ∧
  ∀ (s : State) (n : Nat),
    wordOfLanes (registerLane s n 0) (registerLane s n 1) (registerLane s n 2) (registerLane s n 3) =
      readRegister s n ∧ registerLane s n 0 = (readRegister s n).setWidth 8

/-- R41: an access that is not 32 bits wide or not at a multiple of 4 has no step. -/
def Obligations.UnadmittedAccessRefused : Prop :=
  (∀ (s : State) (b n : Nat) (v : Word) (rest : List HostMove), s.host = .write b n v :: rest →
    b ≠ 4 ∨ n % 4 ≠ 0 → step s = .refused (.unadmittedAccess b n)) ∧
  (∀ (s : State) (b n : Nat) (rest : List HostMove), s.host = .read b n :: rest →
    b ≠ 4 ∨ n % 4 ≠ 0 → step s = .refused (.unadmittedAccess b n))

/-- R9, R41, R104: every command ends in a next state, and the only steps without one are unadmitted accesses and
accesses outside the window (log entry 12). -/
def Obligations.CommandsAlwaysComplete : Prop :=
  (∀ (i : Instr) (s : State), ∃ t, exec i s = .next t) ∧
  (∀ s : State, (∃ t, step s = .next t) ∨
    ∃ b n rest, (s.host = .read b n :: rest ∨ ∃ v, s.host = .write b n v :: rest) ∧
      (b ≠ 4 ∨ n % 4 ≠ 0 ∨ 0x200 ≤ n))

/-! ## Reset and errors -/

/-- R37: the reset values the spec gives, and STATUS 0. -/
def Obligations.ResetValues : Prop :=
  State.reset.init = false ∧ State.reset.life = .disabled ∧ State.reset.halted = false ∧
  State.reset.err = ⟨0, 0, 0, 0⟩ ∧ State.reset.opa = 0 ∧
  (∀ n, slotAt State.reset.slots n = ⟨false, ⟨0, 0, 0, 0, 0⟩⟩) ∧
  State.reset.layout = ⟨.uninitialized, 0, 0⟩ ∧ State.reset.next = 0 ∧ State.reset.enc = ⟨0, 0, 0⟩ ∧
  State.reset.dacResult = 0 ∧ State.reset.mmuEn = false ∧ State.reset.icEn = false ∧
  State.reset.dcEn = false ∧ State.reset.events = [] ∧ statusWord State.reset = 0

/-- R37, R101: the reset event from any state, halted or not; nothing is said of hw, dacr and asid, which are
draws. That the host's later moves stay is the model's choice (log entry 6). -/
def Obligations.ResetEventRestoresReset : Prop :=
  ∀ (s : State) (rest : List HostMove), s.host = .reset :: rest → ∃ t, step s = .next t ∧
    t.init = false ∧ t.life = .disabled ∧ t.halted = false ∧ t.err = ⟨0, 0, 0, 0⟩ ∧ t.opa = 0 ∧
    (∀ n, slotAt t.slots n = ⟨false, ⟨0, 0, 0, 0, 0⟩⟩) ∧ t.layout = ⟨.uninitialized, 0, 0⟩ ∧ t.next = 0 ∧
    t.enc = ⟨0, 0, 0⟩ ∧ t.dacResult = 0 ∧ t.mmuEn = false ∧ t.icEn = false ∧ t.dcEn = false ∧
    t.events = [] ∧ statusWord t = 0 ∧ t.host = rest

/-- R90: `raise` latches the record, halts and emits Fatal, rolls nothing back, and ends the command: whatever
steps were to come, none runs. -/
def Obligations.RaiseLatchesRecord : Prop :=
  ∀ (e : BlockError) (w : Word) (s : State) (later : State → Progress),
    finish (andThen (stopWith e w s) later) =
      .next (halts (errorCode e) w (errorOperands w e).1 (errorOperands w e).2 s)

/-- R88, R89: codes, operands, subcodes and details. -/
def Obligations.ErrorCodesAndOperands : Prop :=
  ∀ (w addr : Word) (gr : BitVec 1) (dom : BitVec 8) (perm : BitVec 2) (attr : BitVec 3) (k : Nat)
    (i d : Bool) (n : SlotName) (r : DecodeError),
    errorRecord (.alignmentViolation addr gr) w = ⟨1, w, addr, if gr = 0 then 0x00100000 else 0x01000000⟩ ∧
    errorRecord (.illegalDomain dom gr) w = ⟨2, w, dom.setWidth 32, gr.setWidth 32⟩ ∧
    errorRecord (.capacityExceeded k) w = ⟨3, w, BitVec.ofNat 32 k, 8⟩ ∧
    errorRecord (.invalidPermission perm) w = ⟨4, w, perm.setWidth 32, 0⟩ ∧
    errorRecord (.invalidAttribute attr) w = ⟨4, w, attr.setWidth 32, 1⟩ ∧
    errorRecord .doubleInitialization w = ⟨5, w, 1, 0⟩ ∧
    errorRecord (.preconditionViolation .commitWhileMapped) w = ⟨6, w, 1, 0⟩ ∧
    errorRecord (.preconditionViolation .disableWhileDisabled) w = ⟨6, w, 2, 0⟩ ∧
    errorRecord (.preconditionViolation .mmuReportsDisabled) w = ⟨6, w, 3, 0⟩ ∧
    errorRecord (.preconditionViolation .mmuReportsEnabled) w = ⟨6, w, 4, 1⟩ ∧
    errorRecord (.preconditionViolation (.cachesDiffer i d)) w =
      ⟨6, w, 5, BitVec.ofNat 32 (2 * i.toNat + d.toNat)⟩ ∧
    errorRecord (.preconditionViolation .beforeInit) w = ⟨6, w, 6, 0⟩ ∧
    errorRecord (.preconditionViolation (.slotNotLoaded n)) w = ⟨6, w, 7, BitVec.ofNat 32 (slotIndex n)⟩ ∧
    errorRecord (.preconditionViolation (.setsecWhileMapped n)) w = ⟨6, w, 8, BitVec.ofNat 32 (slotIndex n)⟩ ∧
    errorRecord (.illegalCommand r) w = ⟨7, w, w, decodeReason r⟩

/-- R15, R21, R93: while halted, every step but a reset leaves everything but OPA and the host's own side
alone. -/
def Obligations.HaltedIsAbsorbing : Prop :=
  ∀ s t : State, Faulted s → ¬ ResetNext s → step s = .next t →
    t = { s with host := t.host, opa := t.opa, readData := t.readData } ∧ Faulted t

/-! ## SETSEC, ENCODE, PIN -/

/-- R74: SETSEC's word; it loads its slot and writes nothing else; its errors, in order. -/
def Obligations.SetsecLoadsSlot : Prop :=
  ∀ (s : State) (slot : BitVec 3) (n : SlotName) (gr : BitVec 1) (dom : BitVec 8) (perm : BitVec 2)
    (attr : BitVec 3), slotOf slot = some n →
    let i := Instr.setsec slot gr dom perm attr
    decode (0x2#4 ++ slot ++ gr ++ dom ++ perm ++ attr ++ 0#11) = .ok i ∧
    (s.life = .mapped →
      exec i s = .next (halts 6 (encodeWord i) 8 (BitVec.ofNat 32 (slotIndex n)) s)) ∧
    (s.life = .disabled → aligned s.opa gr = false →
      exec i s = .next (halts 1 (encodeWord i) s.opa (granule gr) s)) ∧
    (s.life = .disabled → aligned s.opa gr = true → domOk Config.params.ssDomainPolicy dom gr = false →
      exec i s = .next (halts 2 (encodeWord i) (dom.setWidth 32) (gr.setWidth 32) s)) ∧
    (s.life = .disabled → aligned s.opa gr = true → domOk Config.params.ssDomainPolicy dom gr = true →
      exec i s = .next { s with slots := slotPut s.slots n ⟨true, ⟨s.opa, gr, dom, perm, attr⟩⟩ })

/-- R75: ENCODE's word; it writes the encoder's result and nothing else, in any lifecycle state and without INIT; its
errors, in order. -/
def Obligations.EncodeWritesResult : Prop :=
  ∀ (s : State) (gr : BitVec 1) (dom : BitVec 8) (perm : BitVec 2) (attr : BitVec 3),
    let i := Instr.encode gr dom perm attr
    decode (0x3#4 ++ 0#3 ++ gr ++ dom ++ perm ++ attr ++ 0#11) = .ok i ∧
    let okDom := domOk Config.params.ssDomainPolicy dom gr
    (aligned s.opa gr = false → exec i s = .next (halts 1 (encodeWord i) s.opa (granule gr) s)) ∧
    (aligned s.opa gr = true → permOf perm = none →
      exec i s = .next (halts 4 (encodeWord i) (perm.setWidth 32) 0 s)) ∧
    (aligned s.opa gr = true → permOf perm ≠ none → okDom = false →
      exec i s = .next (halts 2 (encodeWord i) (dom.setWidth 32) (gr.setWidth 32) s)) ∧
    (aligned s.opa gr = true → permOf perm ≠ none → okDom = true → attrOf attr = none →
      exec i s = .next (halts 4 (encodeWord i) (attr.setWidth 32) 1 s)) ∧
    (∀ p a, aligned s.opa gr = true → permOf perm = some p → okDom = true → attrOf attr = some a →
      exec i s = .next { s with enc := encodePin Config.params.fixedAsid s.opa gr dom p a })

/-- R57, R70, R71: the APX, AP, TEX, C and B bits of each legal PERM and ATTR code. -/
def Obligations.PermissionAndCacheCodes : Prop :=
  (permOf 0).map apMap = some (0, 0b01) ∧ (permOf 1).map apMap = some (0, 0b11) ∧
  (attrOf 0).map attrMap = some (0b000, 0, 0) ∧ (attrOf 1).map attrMap = some (0b000, 0, 1) ∧
  (attrOf 2).map attrMap = some (0b001, 0, 0) ∧ (attrOf 3).map attrMap = some (0b001, 1, 1) ∧
  (attrOf 4).map attrMap = some (0b000, 1, 1) ∧ (attrOf 5).map attrMap = some (0b000, 1, 0)

/-- R69, R72: every field of the pin the encoder writes; the mask loses no bit of an aligned address. -/
def Obligations.PinFields : Prop :=
  ∀ (asid : BitVec 8) (addr : Word) (gr : BitVec 1) (dom : BitVec 8) (perm : PermClass) (attr : AttrClass),
    (aligned addr gr = true → addr &&& 0xFFFFF000 = addr) ∧
    let p := encodePin asid addr gr dom perm attr
    p.lva.extractLsb' 12 20 = addr.extractLsb' 12 20 ∧ p.lva.extractLsb' 8 4 = 0 ∧
    p.lva.extractLsb' 0 8 = asid ∧
    p.lpa.extractLsb' 12 20 = addr.extractLsb' 12 20 ∧ p.lpa.extractLsb' 8 4 = 0 ∧
    p.lpa.extractLsb' 6 2 = (if gr = 0 then 0b11 else 0b00) ∧ p.lpa.extractLsb' 4 2 = 0 ∧
    p.lpa.extractLsb' 3 1 = (apMap perm).1 ∧ p.lpa.extractLsb' 1 2 = (apMap perm).2 ∧
    p.lpa.getLsbD 0 = true ∧
    p.lattr.extractLsb' 11 21 = 0 ∧ p.lattr.extractLsb' 7 4 = dom.extractLsb' 0 4 ∧
    p.lattr.getLsbD 6 = false ∧ p.lattr.extractLsb' 3 3 = (attrMap attr).1 ∧
    p.lattr.extractLsb' 2 1 = (attrMap attr).2.1 ∧ p.lattr.extractLsb' 1 1 = (attrMap attr).2.2 ∧
    p.lattr.getLsbD 0 = false

/-- R67, R68: which descriptors are legal, for either `SS_DOMAIN_POLICY`. -/
def Obligations.LegalDescriptors : Prop :=
  (∀ (policy : SsDomainPolicy) (dom : BitVec 8) (gr : BitVec 1), domOk policy dom gr = true ↔
    dom.toNat < 16 ∧ ¬ (gr = 1 ∧ dom ≠ 0 ∧ policy = .reject)) ∧
  (∀ perm : BitVec 2, permOf perm ≠ none ↔ perm = 0b00 ∨ perm = 0b01) ∧
  (∀ attr : BitVec 3, attrOf attr ≠ none ↔ attr.toNat ≤ 5)

/-- R39, R66: alignment, as a remainder and as zero low bits; an aligned section does not wrap. -/
def Obligations.AlignedSections : Prop :=
  ∀ addr : Word,
    (aligned addr 0 = true ↔ addr.toNat % 2 ^ 20 = 0) ∧ (aligned addr 1 = true ↔ addr.toNat % 2 ^ 24 = 0) ∧
    (aligned addr 0 = true ↔ addr.extractLsb' 0 20 = 0) ∧ (aligned addr 1 = true ↔ addr.extractLsb' 0 24 = 0) ∧
    (aligned addr 0 = true → addr.toNat + (2 ^ 20 - 1) ≤ 0xFFFFFFFF) ∧
    (aligned addr 1 = true → addr.toNat + (2 ^ 24 - 1) ≤ 0xFFFFFFFF)

/-- R73, R76: PIN writes entry `next` between barriers and raises `next`; nothing else changes. -/
def Obligations.PinWritesNextEntry : Prop :=
  ∀ (s : State) (gr : BitVec 1) (dom : BitVec 8) (perm : BitVec 2) (attr : BitVec 3) (p : Pin)
    (h : s.next < 8), s.init = true → Encodes ⟨s.opa, gr, dom, perm, attr⟩ p →
    exec (.pin gr dom perm attr) s = .next { s with
      hw := s.hw.set s.next p
      next := s.next + 1
      events := s.events ++ [.barrier, .pinWrite ⟨s.next, h⟩ p, .barrier] }

/-- R76, R91: PIN's errors, in order; a refused PIN leaves only the leading Barrier and Fatal. -/
def Obligations.PinErrorsInOrder : Prop :=
  ∀ (s : State) (gr : BitVec 1) (dom : BitVec 8) (perm : BitVec 2) (attr : BitVec 3),
    let i := Instr.pin gr dom perm attr
    let b := { s with events := s.events ++ [.barrier] }
    let okDom := domOk Config.params.ssDomainPolicy dom gr
    (s.init = false → exec i s = .next (halts 6 (encodeWord i) 6 0 s)) ∧
    (s.init = true → aligned s.opa gr = false →
      exec i s = .next (halts 1 (encodeWord i) s.opa (granule gr) b)) ∧
    (s.init = true → aligned s.opa gr = true → 8 ≤ s.next →
      exec i s = .next (halts 3 (encodeWord i) (BitVec.ofNat 32 s.next) 8 b)) ∧
    (s.init = true → aligned s.opa gr = true → s.next < 8 → permOf perm = none →
      exec i s = .next (halts 4 (encodeWord i) (perm.setWidth 32) 0 b)) ∧
    (s.init = true → aligned s.opa gr = true → s.next < 8 → permOf perm ≠ none → okDom = false →
      exec i s = .next (halts 2 (encodeWord i) (dom.setWidth 32) (gr.setWidth 32) b)) ∧
    (s.init = true → aligned s.opa gr = true → s.next < 8 → permOf perm ≠ none → okDom = true →
      attrOf attr = none → exec i s = .next (halts 4 (encodeWord i) (attr.setWidth 32) 1 b))

/-! ## DACCALC, DACSET -/

/-- R79: DACCALC's word; it writes the mask and nothing else, with or without INIT; or raises on the lowest unloaded
slot. -/
def Obligations.DaccalcWritesMask : Prop :=
  ∀ s : State, decode (0x5#4 ++ 0#28) = .ok .daccalc ∧
    (AllLoaded s.slots → exec .daccalc s = .next { s with dacResult := dacCompute s.slots }) ∧
    (∀ n, LowestUnloaded s.slots n →
      exec .daccalc s = .next (halts 6 (encodeWord .daccalc) 7 (BitVec.ofNat 32 (slotIndex n)) s))

/-- R78: each referenced domain's field is 0b01 and each other field 0b00. -/
def Obligations.DomainMaskFields : Prop :=
  ∀ (f : Slots) (d : BitVec 4),
    ((∃ n, (slotAt f n).sec.dom.extractLsb' 0 4 = d) → domainMode (dacCompute f) d = 0b01) ∧
    ((∀ n, (slotAt f n).sec.dom.extractLsb' 0 4 ≠ d) → domainMode (dacCompute f) d = 0b00)

/-- R80: DACSET's word; it writes any value of OPA to the DACR between barriers, in either lifecycle state; before INIT it
raises. -/
def Obligations.DacsetWritesDacr : Prop :=
  ∀ s : State, decode (0x6#4 ++ 0#28) = .ok .dacset ∧
    (s.init = true → exec .dacset s = .next { s with
      dacr := s.opa, events := s.events ++ [.barrier, .dacrWrite s.opa, .barrier] }) ∧
    (s.init = false → exec .dacset s = .next (halts 6 (encodeWord .dacset) 6 0 s))

/-! ## INIT, COMMIT, DISABLE, REMAP -/

/-- R84: INIT's state and its 24 events; a second INIT raises. -/
def Obligations.InitInvalidatesEverything : Prop :=
  ∀ s : State,
    (s.init = false → exec .init s = .next { s with
      init := true, next := 0, hw := Vector.replicate 8 ⟨0, 0, 0⟩, dacr := 0, icEn := false, dcEn := false
      events := s.events ++ [.barrier, .cacheEnable false false, .barrier, .cacheInvalidateAll,
        .tlbInvalidateAll, .barrier, .pinWrite 0 ⟨0, 0, 0⟩, .barrier, .pinWrite 1 ⟨0, 0, 0⟩, .barrier,
        .pinWrite 2 ⟨0, 0, 0⟩, .barrier, .pinWrite 3 ⟨0, 0, 0⟩, .barrier, .pinWrite 4 ⟨0, 0, 0⟩, .barrier,
        .pinWrite 5 ⟨0, 0, 0⟩, .barrier, .pinWrite 6 ⟨0, 0, 0⟩, .barrier, .pinWrite 7 ⟨0, 0, 0⟩, .barrier,
        .dacrWrite 0, .barrier] }) ∧
    (s.init = true → exec .init s = .next (halts 5 (encodeWord .init) 1 0 s))

/-- R82: what each policy writes, slot by slot. -/
def Obligations.PolicyAttributes : Prop :=
  ∀ (f : Slots) (n : SlotName),
    slotAt (applyPolicy .asIs f) n = slotAt f n ∧
    slotAt (applyPolicy .cached f) n =
      { slotAt f n with sec := { (slotAt f n).sec with attr := if n = .device then 1 else 3 } } ∧
    slotAt (applyPolicy .uncached f) n =
      { slotAt f n with sec := { (slotAt f n).sec with attr := if n = .device then 0 else 2 } } ∧
    cacheTarget .asIs = none ∧ cacheTarget .cached = some (true, true) ∧
    cacheTarget .uncached = some (false, false)

/-- R85: COMMIT with a legal policy, from Disabled with five legal slots, at most three earlier pins and agreeing
reports, ends Mapped; the whole next state. -/
def Obligations.CommitMapsLayout : Prop :=
  ∀ (s : State) (pol : BitVec 2) (p : Policy) (pins : SlotName → Pin) (h : s.next ≤ 3),
    policyOf pol = some p → s.init = true → s.life = .disabled → LayoutEncodes p s.slots pins →
    mmuReport s = true → CachesAgree p (takeMmuReport s) →
    exec (.commit pol) s = .next (mappedState p pins s.next h s.events (reportsTaken p s) s)

/-- R85, R91: COMMIT's guards in order, each before any write. -/
def Obligations.CommitGuardsInOrder : Prop :=
  ∀ (s : State) (pol : BitVec 2), pol ≠ 3 →
    let w := encodeWord (.commit pol)
    (s.init = false → exec (.commit pol) s = .next (halts 6 w 6 0 s)) ∧
    (s.init = true → s.life = .mapped → exec (.commit pol) s = .next (halts 6 w 1 0 s)) ∧
    (∀ n, s.init = true → s.life = .disabled → LowestUnloaded s.slots n →
      exec (.commit pol) s = .next (halts 6 w 7 (BitVec.ofNat 32 (slotIndex n)) s))

/-- R85, R110: the MMU reports disabled after the enable: subcode 3, with the five pins written and the MMU driven
on while Disabled. -/
def Obligations.CommitMmuCheckFails : Prop :=
  ∀ (s : State) (pol : BitVec 2) (p : Policy) (pins : SlotName → Pin) (h : s.next ≤ 3),
    policyOf pol = some p → s.init = true → s.life = .disabled → LayoutEncodes p s.slots pins →
    mmuReport s = false →
    ∃ t, exec (.commit pol) s = .next t ∧ t.halted = true ∧ t.err = ⟨6, encodeWord (.commit pol), 3, 0⟩ ∧
      t.mmuEn = true ∧ t.life = .disabled ∧ t.layout.committed = s.layout.committed ∧ t.layout.pinsUsed = 5 ∧
      t.next = s.next + 5 ∧ t.dacr = dacCompute s.slots ∧ t.asid = Config.params.fixedAsid ∧
      t.icEn = s.icEn ∧ t.dcEn = s.dcEn ∧ t.hw = pinsAt s.hw s.next h pins ∧
      t.slots = applyPolicy p s.slots ∧
      t.events = s.events ++ [.barrier] ++ pinEvents s.next h pins ++ driveEvents (dacCompute s.slots) ++
        [.fatal ⟨6, encodeWord (.commit pol), 3, 0⟩]

/-- R85: the caches report otherwise than the policy requests: subcode 5 with the observed pair. -/
def Obligations.CommitCacheCheckFails : Prop :=
  ∀ (s : State) (pol : BitVec 2) (p : Policy) (pins : SlotName → Pin) (i d oi od : Bool), s.next ≤ 3 →
    policyOf pol = some p → s.init = true → s.life = .disabled → LayoutEncodes p s.slots pins →
    mmuReport s = true → cacheTarget p = some (i, d) → cacheReport (takeMmuReport s) = (oi, od) →
    (oi, od) ≠ (i, d) →
    ∃ t, exec (.commit pol) s = .next t ∧ t.halted = true ∧
      t.err = ⟨6, encodeWord (.commit pol), 5, BitVec.ofNat 32 (2 * oi.toNat + od.toNat)⟩ ∧
      t.mmuEn = true ∧ t.icEn = i ∧ t.dcEn = d ∧ t.life = .disabled ∧
      t.layout.committed = s.layout.committed

/-- R85, R9: a slot with an illegal permission, or with an illegal attribute that the policy leaves in place, stops
COMMIT with InvalidPermission after the slots before it were pinned; the pins and the raised `next` stay, and
nothing later ran. -/
def Obligations.CommitStopsAtBadPermission : Prop :=
  ∀ (s : State) (pol : BitVec 2) (p : Policy) (pins : SlotName → Pin) (n : SlotName) (op0 op1 : Word),
    policyOf pol = some p → s.init = true → s.life = .disabled → AllLoaded s.slots →
    s.next + slotIndex n < 8 →
    (∀ m, slotIndex m < slotIndex n → Encodes (slotAt (applyPolicy p s.slots) m).sec (pins m)) →
    aligned (slotAt s.slots n).sec.addr (slotAt s.slots n).sec.gr = true →
    RefusedCode (slotAt (applyPolicy p s.slots) n).sec op0 op1 →
    ∃ t, exec (.commit pol) s = .next t ∧ t.halted = true ∧ t.err = ⟨4, encodeWord (.commit pol), op0, op1⟩ ∧
      t.next = s.next + slotIndex n ∧ t.layout.pinsUsed = slotIndex n ∧
      (∀ m (k : Nat) (hk : k < 8), slotIndex m < slotIndex n → k = s.next + slotIndex m → t.hw[k] = pins m) ∧
      t.slots = applyPolicy p s.slots ∧ t.dacr = s.dacr ∧ t.asid = s.asid ∧ t.mmuEn = s.mmuEn ∧
      t.icEn = s.icEn ∧ t.dcEn = s.dcEn ∧ t.life = .disabled ∧ t.layout.committed = s.layout.committed

/-- R85: with more than three pins used, COMMIT pins the slots that fit, leaves the entries used before, and raises
CapacityExceeded part-way. -/
def Obligations.CommitExhaustsTable : Prop :=
  ∀ (s : State) (pol : BitVec 2) (p : Policy) (pins : SlotName → Pin), 3 < s.next → s.next ≤ 8 →
    policyOf pol = some p → s.init = true → s.life = .disabled → LayoutEncodes p s.slots pins →
    ∃ t, exec (.commit pol) s = .next t ∧ t.halted = true ∧ t.err = ⟨3, encodeWord (.commit pol), 8, 8⟩ ∧
      t.next = 8 ∧ t.layout.pinsUsed = 8 - s.next ∧
      (∀ m (k : Nat) (hk : k < 8), k = s.next + slotIndex m → t.hw[k] = pins m) ∧
      (∀ (k : Nat) (hk : k < 8), k < s.next → t.hw[k] = s.hw[k]) ∧ t.dacr = s.dacr ∧ t.asid = s.asid ∧
      t.mmuEn = s.mmuEn ∧ t.life = .disabled ∧ t.layout.committed = s.layout.committed

/-- R86: DISABLE's word; it drives the MMU off and unmaps; guard and self-check. Entries, DACR, ASID, caches and slots
stay. -/
def Obligations.DisableUnmaps : Prop :=
  ∀ s : State,
    let off := { takeMmuReport s with mmuEn := false, events := s.events ++ disableEvents }
    decode (0x8#4 ++ 0#28) = .ok .disable ∧
    (s.life = .mapped → mmuReport s = false → exec .disable s = .next { off with
      life := .disabled, next := 0, layout := ⟨.uninitialized, 0, 0⟩ }) ∧
    (s.life = .mapped → mmuReport s = true → exec .disable s = .next (halts 6 (encodeWord .disable) 4 1 off)) ∧
    (s.life = .disabled → exec .disable s = .next (halts 6 (encodeWord .disable) 2 0 s))

/-- R87: REMAP from Disabled does what COMMIT does: a COMMIT that maps the layout and the REMAP end in the same
state, and from every initialized Disabled state a COMMIT and a REMAP either both end Mapped in one state or both halt from
one state with the same code and operands, each with its own word in the record. From Mapped, with the MMU reported
off, REMAP goes on as from the state its disable half leaves, so its commit half fails as COMMIT does. -/
def Obligations.RemapFromDisabledMaps : Prop :=
  (∀ (s : State) (pol : BitVec 2) (p : Policy) (pins : SlotName → Pin) (h : s.next ≤ 3),
    policyOf pol = some p → s.init = true → s.life = .disabled → LayoutEncodes p s.slots pins →
    mmuReport s = true → CachesAgree p (takeMmuReport s) →
    exec (.remap pol) s = .next (mappedState p pins s.next h s.events (reportsTaken p s) s)) ∧
  (∀ (s : State) (pol : BitVec 2), pol ≠ 3 → s.init = true → s.life = .disabled →
    (∃ t, t.life = .mapped ∧ exec (.commit pol) s = .next t ∧ exec (.remap pol) s = .next t) ∨
    (∃ (u : State) (code : BitVec 4) (op0 op1 : Word),
      exec (.commit pol) s = .next (halts code (encodeWord (.commit pol)) op0 op1 u) ∧
      exec (.remap pol) s = .next (halts code (encodeWord (.remap pol)) op0 op1 u))) ∧
  (∀ (s : State) (pol : BitVec 2), pol ≠ 3 → s.init = true → s.life = .mapped → mmuReport s = false →
    exec (.remap pol) s = exec (.remap pol) (disabledState s))

/-- R87: REMAP from Mapped disables, then commits the same slots from index 0. -/
def Obligations.RemapFromMappedRecommits : Prop :=
  ∀ (s : State) (pol : BitVec 2) (p : Policy) (pins : SlotName → Pin),
    policyOf pol = some p → s.init = true → s.life = .mapped → LayoutEncodes p s.slots pins →
    mmuReport s = false → mmuReport (takeMmuReport s) = true →
    CachesAgree p (takeMmuReport (takeMmuReport s)) →
    exec (.remap pol) s = .next (mappedState p pins 0 (by omega) (s.events ++ disableEvents)
      (reportsTaken p (takeMmuReport s)) s)

/-- R87, R91: REMAP's guard, and the self-check of its disable half, which writes no pin. -/
def Obligations.RemapGuards : Prop :=
  ∀ (s : State) (pol : BitVec 2), pol ≠ 3 →
    let w := encodeWord (.remap pol)
    (s.init = false → exec (.remap pol) s = .next (halts 6 w 6 0 s)) ∧
    (s.init = true → s.life = .mapped → mmuReport s = true → exec (.remap pol) s =
      .next (halts 6 w 4 1 { takeMmuReport s with mmuEn := false, events := s.events ++ disableEvents }))

/-- R87: DISABLE followed by REMAP restores a Mapped state with the pin count and domain value of the original
commit. -/
def Obligations.DisableRemapRoundTrip : Prop :=
  ∀ (s : State) (pins : SlotName → Pin), BlockInv s → s.halted = false → s.life = .mapped →
    LayoutEncodes .asIs s.slots pins → mmuReport s = false → mmuReport (takeMmuReport s) = true →
    ∃ d t, exec .disable s = .next d ∧ d.life = .disabled ∧ d.hw = s.hw ∧ exec (.remap 0) d = .next t ∧
      t.halted = false ∧ t.life = .mapped ∧ t.layout = s.layout ∧ t.next = 5 ∧ t.slots = s.slots ∧
      t.dacr = s.layout.domAccum

/-! ## The whole machine -/

/-- R14, R20, R22 to R27, R29 to R32: which commands may write each piece of state; everything else stays. -/
def Obligations.CommandFrames : Prop :=
  ∀ (i : Instr) (s t : State), exec i s = .next t →
    let isCommit := ∃ p, i = .commit p
    let isRemap := ∃ p, i = .remap p
    let isPin := ∃ g d p a, i = .pin g d p a
    t.opa = s.opa ∧ t.host = s.host ∧ t.readData = s.readData ∧
    (t.slots = s.slots ∨ (∃ n g d p a, i = .setsec n g d p a) ∨ isCommit ∨ isRemap) ∧
    (t.enc = s.enc ∨ ∃ g d p a, i = .encode g d p a) ∧
    (t.dacResult = s.dacResult ∨ i = .daccalc) ∧
    (t.hw = s.hw ∨ i = .init ∨ isPin ∨ isCommit ∨ isRemap) ∧
    (t.dacr = s.dacr ∨ i = .init ∨ i = .dacset ∨ isCommit ∨ isRemap) ∧
    (t.asid = s.asid ∨ isCommit ∨ isRemap) ∧
    (t.mmuEn = s.mmuEn ∨ i = .disable ∨ isCommit ∨ isRemap) ∧
    (t.icEn = s.icEn ∧ t.dcEn = s.dcEn ∨ i = .init ∨ isCommit ∨ isRemap) ∧
    (t.next = s.next ∨ i = .init ∨ isPin ∨ i = .disable ∨ isCommit ∨ isRemap) ∧
    (t.layout = s.layout ∧ t.life = s.life ∨ i = .disable ∨ isCommit ∨ isRemap) ∧
    (t.init = s.init ∨ i = .init ∧ t.init = true) ∧
    (t.err = s.err ∧ t.halted = s.halted ∨ t.halted = true ∧ t.events.getLast? = some (.fatal t.err)) ∧
    (t.mmuReports = s.mmuReports ∧ t.cacheReports = s.cacheReports ∧ t.draws = s.draws ∨
      i = .disable ∨ isCommit ∨ isRemap)

/-- R18, R81: only COMMIT and REMAP lead from Disabled to Mapped, and only DISABLE and REMAP back. -/
def Obligations.LifecycleTransitions : Prop :=
  ∀ (i : Instr) (s t : State), exec i s = .next t →
    (s.life = .disabled → t.life = .mapped → (∃ p, i = .commit p) ∨ ∃ p, i = .remap p) ∧
    (s.life = .mapped → t.life = .disabled → i = .disable ∨ ∃ p, i = .remap p)

/-- R30, 90_conflicts.md C4: an entry below `next` is never rewritten, but by INIT and by a REMAP. -/
def Obligations.PinsWrittenOnce : Prop :=
  ∀ (i : Instr) (s t : State), exec i s = .next t → i ≠ .init → (∀ p, i ≠ .remap p) →
    ∀ (k : Nat) (hk : k < 8), k < s.next → t.hw[k] = s.hw[k]

/-- R35, R105: a REMAP from Mapped leaves entries 5 to 7 as they were, valid or not. -/
def Obligations.RemapKeepsStaleEntries : Prop :=
  ∀ (s t : State) (pol : BitVec 2), s.life = .mapped → exec (.remap pol) s = .next t →
    ∀ (k : Nat) (hk : k < 8), 5 ≤ k → t.hw[k] = s.hw[k]

/-- R36 (a) to (e), R20, R26, R29, R84: the invariant holds after every step from a state where it holds. -/
def Obligations.BlockInvKept : Prop :=
  ∀ s t : State, BlockInv s → step s = .next t → BlockInv t

/-- R36, R37: the invariant holds right after reset. -/
def Obligations.BlockInvAtReset : Prop := BlockInv State.reset

/-- R36 (f): while Mapped the DACR is the layout's domain value, until a DACSET. -/
def Obligations.DacrFollowsLayout : Prop :=
  ∀ s t : State, BlockInv s → (s.halted = false → s.life = .mapped → s.dacr = s.layout.domAccum) →
    (∀ rest, s.host ≠ .write 4 0x000 (encodeWord .dacset) :: rest) → step s = .next t →
    t.halted = false → t.life = .mapped → t.dacr = t.layout.domAccum

/-- R22 to R25, R31, R33: but for a reset the history only grows, and the record of the processor is the old one
with the new events performed in order. -/
def Obligations.MirrorsFollowHistory : Prop :=
  ∀ s t : State, ¬ ResetNext s → step s = .next t →
    ∃ es, t.events = s.events ++ es ∧ mirrorsOf t = perform (mirrorsOf s) es

/-- R47: every step keeps every processor write bracketed by barriers. -/
def Obligations.WritesStayBracketed : Prop :=
  ∀ s t : State, Bracketed s.events → step s = .next t → Bracketed t.events

/-- R47: the history right after reset is bracketed and nothing is pending. -/
def Obligations.BracketedAtReset : Prop :=
  Bracketed State.reset.events ∧ pendingWrites State.reset.events = []

/-- R48, R111: every command's processor writes are in effect once its CMD write completes. -/
def Obligations.NoWriteStaysPending : Prop :=
  ∀ s t : State, pendingWrites s.events = [] → step s = .next t → pendingWrites t.events = []

/-! ## Translation context and assembler -/

/-- R44, R69: an entry the encoder wrote matches every address of its section under its ASID, and maps it to
itself (general knowledge of the spec, log entries 9 and 15). -/
def Obligations.IdentityTranslation : Prop :=
  ∀ (asid : BitVec 8) (addr a : Word) (gr : BitVec 1) (dom : BitVec 8) (perm : PermClass) (attr : AttrClass),
    aligned addr gr = true → addr.toNat ≤ a.toNat → a.toNat < addr.toNat + (granule gr).toNat →
    entryMatches asid (encodePin asid addr gr dom perm attr) a = true ∧
    physicalAddress (encodePin asid addr gr dom perm attr) a = a

/-- R45: the DACR mode and APX:AP decide an access with exactly one match (general knowledge of the spec, log
entry 15). -/
def Obligations.DomainModesDecide : Prop :=
  ∀ (k : Nat) (s : State) (x : Access) (p : Pin), s.mmuEn = true → matchingEntries s x.addr = [p] →
    (domainMode s.dacr (entryDomain p) = 0b00 → translate k s x = .domainFault) ∧
    (domainMode s.dacr (entryDomain p) = 0b11 → translate k s x = .physical (physicalAddress p x.addr)) ∧
    (domainMode s.dacr (entryDomain p) = 0b01 → p.lpa.extractLsb' 1 3 = 0b001 →
      translate k s x =
        if x.privileged then .physical (physicalAddress p x.addr) else .permissionFault) ∧
    (domainMode s.dacr (entryDomain p) = 0b01 → p.lpa.extractLsb' 1 3 = 0b011 →
      translate k s x = .physical (physicalAddress p x.addr))

/-- R62: a statement with an operand runs as an OPA write and then its command; any other runs its command. -/
def Obligations.StatementsRunTheirCommand : Prop :=
  ∀ (a : AsmStatement) (s : State) (rest : List HostMove), (asmCommand a).wellFormed = true →
    s.halted = false → s.host = asmMoves a ++ rest →
    (∀ v, asmOperand a = some v → ∃ u, step s = .next u ∧
      step u = exec (asmCommand a) { s with opa := v, host := rest }) ∧
    (asmOperand a = none → step s = exec (asmCommand a) { s with host := rest })

/-- R63, R64, R65: the expansions of the pseudo-instructions. -/
def Obligations.PseudoExpansions : Prop :=
  ∀ (P : Params) (slot : BitVec 3) (addr heap dev : Word) (dom kdom idom hdom : BitVec 8),
    expandPseudo P (.setsecKernel slot addr dom) = [.setsec slot addr 0 dom 0 2] ∧
    expandPseudo P (.setsecDevice slot addr) = [.setsec slot addr 1 0 0 0] ∧
    expandPseudo P (.layoutDefault kdom idom hdom heap dev) =
      [.setsec 0 P.codeBase 0 kdom 0 2, .setsec 1 P.stackBase 0 kdom 0 2, .setsec 2 P.istackBase 0 idom 0 2,
        .setsec 3 heap 0 hdom 0 2, .setsec 4 dev 1 0 0 0]
end

