-- ==== Sys2Proof/Laws/Decode.lean ====
section
/-! SUPPORT. The fields of an assembled command word read back (R53 to R56): the small lemmas of `wordN`, `wordD`
and `wordP`. -/

namespace Sys2Proof

/-! ## One bit of an assembled word -/

theorem getLsbD_wordN (op : BitVec 4) (k : Nat) :
    (wordN op).getLsbD k = if k < 28 then false else op.getLsbD (k - 28) := by
  show BitVec.getLsbD (w := 4 + 28) (op ++ (0 : BitVec 28)) k = _
  simp only [BitVec.getLsbD_append]
  split_ifs <;> simp

theorem getLsbD_wordD (op : BitVec 4) (slot : BitVec 3) (gr : BitVec 1) (dom : BitVec 8) (perm : BitVec 2)
    (attr : BitVec 3) (k : Nat) : (wordD op slot gr dom perm attr).getLsbD k =
      if k < 11 then false else if k < 14 then attr.getLsbD (k - 11) else if k < 16 then perm.getLsbD (k - 14)
      else if k < 24 then dom.getLsbD (k - 16) else if k < 25 then gr.getLsbD (k - 24)
      else if k < 28 then slot.getLsbD (k - 25) else op.getLsbD (k - 28) := by
  show BitVec.getLsbD (w := 4 + 3 + 1 + 8 + 2 + 3 + 11)
    (op ++ slot ++ gr ++ dom ++ perm ++ attr ++ (0 : BitVec 11)) k = _
  simp only [BitVec.getLsbD_append]
  split_ifs <;> first | omega | simp [Nat.sub_sub]

theorem getLsbD_wordP (op : BitVec 4) (pol : BitVec 2) (k : Nat) : (wordP op pol).getLsbD k =
    if k < 26 then false else if k < 28 then pol.getLsbD (k - 26) else op.getLsbD (k - 28) := by
  show BitVec.getLsbD (w := 4 + 2 + 26) (op ++ pol ++ (0 : BitVec 26)) k = _
  simp only [BitVec.getLsbD_append]
  split_ifs <;> first | omega | simp [Nat.sub_sub]

/-! ## The fields of an assembled word -/

theorem opField_wordN (op : BitVec 4) : opField (wordN op) = op := by
  ext i hi
  simp only [opField, BitVec.getElem_extractLsb', getLsbD_wordN]
  grind

theorem low_wordN (op : BitVec 4) : (wordN op).extractLsb' 0 28 = 0 := by
  ext i hi
  simp only [BitVec.getElem_extractLsb', getLsbD_wordN]
  grind

theorem opField_wordP (op : BitVec 4) (pol : BitVec 2) : opField (wordP op pol) = op := by
  ext i hi
  simp only [opField, BitVec.getElem_extractLsb', getLsbD_wordP]
  grind

theorem polField_wordP (op : BitVec 4) (pol : BitVec 2) : polField (wordP op pol) = pol := by
  ext i hi
  simp only [polField, BitVec.getElem_extractLsb', getLsbD_wordP]
  grind

theorem low_wordP (op : BitVec 4) (pol : BitVec 2) : (wordP op pol).extractLsb' 0 26 = 0 := by
  ext i hi
  simp only [BitVec.getElem_extractLsb', getLsbD_wordP]
  grind

section FormatD

variable (op : BitVec 4) (slot : BitVec 3) (gr : BitVec 1) (dom : BitVec 8) (perm : BitVec 2) (attr : BitVec 3)

theorem opField_wordD : opField (wordD op slot gr dom perm attr) = op := by
  ext i hi
  simp only [opField, BitVec.getElem_extractLsb', getLsbD_wordD]
  grind

theorem slotField_wordD : slotField (wordD op slot gr dom perm attr) = slot := by
  ext i hi
  simp only [slotField, BitVec.getElem_extractLsb', getLsbD_wordD]
  grind

theorem grField_wordD : grField (wordD op slot gr dom perm attr) = gr := by
  ext i hi
  simp only [grField, BitVec.getElem_extractLsb', getLsbD_wordD]
  grind

theorem domField_wordD : domField (wordD op slot gr dom perm attr) = dom := by
  ext i hi
  simp only [domField, BitVec.getElem_extractLsb', getLsbD_wordD]
  grind

theorem permField_wordD : permField (wordD op slot gr dom perm attr) = perm := by
  ext i hi
  simp only [permField, BitVec.getElem_extractLsb', getLsbD_wordD]
  grind

theorem attrField_wordD : attrField (wordD op slot gr dom perm attr) = attr := by
  ext i hi
  simp only [attrField, BitVec.getElem_extractLsb', getLsbD_wordD]
  grind

theorem low_wordD : (wordD op slot gr dom perm attr).extractLsb' 0 11 = 0 := by
  ext i hi
  simp only [BitVec.getElem_extractLsb', getLsbD_wordD]
  grind

end FormatD

end Sys2Proof
end

