-- ==== Sys2Proof/Laws/State.lean ====
section
/-! SUPPORT. What each state update of Machine/Ops.lean does to each field of State, one lemma per field: emitting
an event (R33), the bracketed write (R47), raising an error (R90), taking an environment answer (R34) and
`unmap_all` (R83). -/

namespace Sys2Proof.Machine

/-! ## Emitting an event -/

@[simp] theorem applyEvent_opa (e : Event) (s : State) : (applyEvent e s).opa = s.opa := by
  cases e <;> rfl

@[simp] theorem applyEvent_init (e : Event) (s : State) : (applyEvent e s).init = s.init := by
  cases e <;> rfl

@[simp] theorem applyEvent_life (e : Event) (s : State) : (applyEvent e s).life = s.life := by
  cases e <;> rfl

@[simp] theorem applyEvent_halted (e : Event) (s : State) : (applyEvent e s).halted = s.halted := by
  cases e <;> rfl

@[simp] theorem applyEvent_err (e : Event) (s : State) : (applyEvent e s).err = s.err := by
  cases e <;> rfl

@[simp] theorem applyEvent_slots (e : Event) (s : State) : (applyEvent e s).slots = s.slots := by
  cases e <;> rfl

@[simp] theorem applyEvent_layout (e : Event) (s : State) : (applyEvent e s).layout = s.layout := by
  cases e <;> rfl

@[simp] theorem applyEvent_next (e : Event) (s : State) : (applyEvent e s).next = s.next := by
  cases e <;> rfl

@[simp] theorem applyEvent_enc (e : Event) (s : State) : (applyEvent e s).enc = s.enc := by
  cases e <;> rfl

@[simp] theorem applyEvent_dacResult (e : Event) (s : State) : (applyEvent e s).dacResult = s.dacResult := by
  cases e <;> rfl

@[simp] theorem applyEvent_host (e : Event) (s : State) : (applyEvent e s).host = s.host := by
  cases e <;> rfl

@[simp] theorem applyEvent_readData (e : Event) (s : State) : (applyEvent e s).readData = s.readData := by
  cases e <;> rfl

@[simp] theorem applyEvent_mmuReports (e : Event) (s : State) : (applyEvent e s).mmuReports = s.mmuReports := by
  cases e <;> rfl

@[simp] theorem applyEvent_cacheReports (e : Event) (s : State) : (applyEvent e s).cacheReports = s.cacheReports := by
  cases e <;> rfl

@[simp] theorem applyEvent_draws (e : Event) (s : State) : (applyEvent e s).draws = s.draws := by
  cases e <;> rfl

@[simp] theorem applyEvent_events (e : Event) (s : State) : (applyEvent e s).events = s.events := by
  cases e <;> rfl

@[simp] theorem emit_opa (e : Event) (s : State) : (emit e s).opa = s.opa :=
  applyEvent_opa e s

@[simp] theorem emit_init (e : Event) (s : State) : (emit e s).init = s.init :=
  applyEvent_init e s

@[simp] theorem emit_life (e : Event) (s : State) : (emit e s).life = s.life :=
  applyEvent_life e s

@[simp] theorem emit_halted (e : Event) (s : State) : (emit e s).halted = s.halted :=
  applyEvent_halted e s

@[simp] theorem emit_err (e : Event) (s : State) : (emit e s).err = s.err :=
  applyEvent_err e s

@[simp] theorem emit_slots (e : Event) (s : State) : (emit e s).slots = s.slots :=
  applyEvent_slots e s

@[simp] theorem emit_layout (e : Event) (s : State) : (emit e s).layout = s.layout :=
  applyEvent_layout e s

@[simp] theorem emit_next (e : Event) (s : State) : (emit e s).next = s.next :=
  applyEvent_next e s

@[simp] theorem emit_enc (e : Event) (s : State) : (emit e s).enc = s.enc :=
  applyEvent_enc e s

@[simp] theorem emit_dacResult (e : Event) (s : State) : (emit e s).dacResult = s.dacResult :=
  applyEvent_dacResult e s

@[simp] theorem emit_host (e : Event) (s : State) : (emit e s).host = s.host :=
  applyEvent_host e s

@[simp] theorem emit_readData (e : Event) (s : State) : (emit e s).readData = s.readData :=
  applyEvent_readData e s

@[simp] theorem emit_mmuReports (e : Event) (s : State) : (emit e s).mmuReports = s.mmuReports :=
  applyEvent_mmuReports e s

@[simp] theorem emit_cacheReports (e : Event) (s : State) : (emit e s).cacheReports = s.cacheReports :=
  applyEvent_cacheReports e s

@[simp] theorem emit_draws (e : Event) (s : State) : (emit e s).draws = s.draws :=
  applyEvent_draws e s

@[simp] theorem emit_events (e : Event) (s : State) : (emit e s).events = s.events ++ [e] := rfl

theorem emit_hw (e : Event) (s : State) : (emit e s).hw = (applyEvent e s).hw := rfl

theorem emit_dacr (e : Event) (s : State) : (emit e s).dacr = (applyEvent e s).dacr := rfl

theorem emit_asid (e : Event) (s : State) : (emit e s).asid = (applyEvent e s).asid := rfl

theorem emit_mmuEn (e : Event) (s : State) : (emit e s).mmuEn = (applyEvent e s).mmuEn := rfl

theorem emit_icEn (e : Event) (s : State) : (emit e s).icEn = (applyEvent e s).icEn := rfl

theorem emit_dcEn (e : Event) (s : State) : (emit e s).dcEn = (applyEvent e s).dcEn := rfl

/-! ## Events without an effect on the record of the processor -/

@[simp] theorem emit_barrier (s : State) :
    emit .barrier s = { s with events := s.events ++ [.barrier] } := rfl

@[simp] theorem emit_tlbSync (s : State) :
    emit .tlbSync s = { s with events := s.events ++ [.tlbSync] } := rfl

@[simp] theorem emit_cacheInvalidateAll (s : State) :
    emit .cacheInvalidateAll s = { s with events := s.events ++ [.cacheInvalidateAll] } := rfl

@[simp] theorem emit_tlbInvalidateAll (s : State) :
    emit .tlbInvalidateAll s = { s with events := s.events ++ [.tlbInvalidateAll] } := rfl

@[simp] theorem emit_fatal (r : ErrRecord) (s : State) :
    emit (.fatal r) s = { s with events := s.events ++ [.fatal r] } := rfl

/-! ## The bracketed hardware write -/

@[simp] theorem hwWrite_pinWrite (i : Fin 8) (p : Pin) (s : State) :
    hwWrite (.pinWrite i p) s = { s with hw := s.hw.set i p, events := s.events ++ [.pinWrite i p, .barrier] } := by
  simp [hwWrite, emit, applyEvent]

@[simp] theorem hwWrite_dacrWrite (v : Word) (s : State) :
    hwWrite (.dacrWrite v) s = { s with dacr := v, events := s.events ++ [.dacrWrite v, .barrier] } := by
  simp [hwWrite, emit, applyEvent]

@[simp] theorem hwWrite_asidWrite (a : BitVec 8) (s : State) :
    hwWrite (.asidWrite a) s = { s with asid := a, events := s.events ++ [.asidWrite a, .barrier] } := by
  simp [hwWrite, emit, applyEvent]

@[simp] theorem hwWrite_mmuEnable (b : Bool) (s : State) :
    hwWrite (.mmuEnable b) s = { s with mmuEn := b, events := s.events ++ [.mmuEnable b, .barrier] } := by
  simp [hwWrite, emit, applyEvent]

@[simp] theorem hwWrite_cacheEnable (i d : Bool) (s : State) :
    hwWrite (.cacheEnable i d) s = { s with icEn := i, dcEn := d, events := s.events ++ [.cacheEnable i d, .barrier] } := by
  simp [hwWrite, emit, applyEvent]

/-! ## Raising an error -/

theorem raiseError_eq (e : BlockError) (w : Word) (s : State) :
    raiseError e w s = { s with
      err := errorRecord e w, halted := true, events := s.events ++ [.fatal (errorRecord e w)] } := rfl

@[simp] theorem raiseError_halted (e : BlockError) (w : Word) (s : State) :
    (raiseError e w s).halted = true := rfl

@[simp] theorem raiseError_err (e : BlockError) (w : Word) (s : State) :
    (raiseError e w s).err = errorRecord e w := rfl

@[simp] theorem raiseError_events (e : BlockError) (w : Word) (s : State) :
    (raiseError e w s).events = s.events ++ [.fatal (errorRecord e w)] := rfl

@[simp] theorem raiseError_opa (e : BlockError) (w : Word) (s : State) :
    (raiseError e w s).opa = s.opa := rfl

@[simp] theorem raiseError_init (e : BlockError) (w : Word) (s : State) :
    (raiseError e w s).init = s.init := rfl

@[simp] theorem raiseError_life (e : BlockError) (w : Word) (s : State) :
    (raiseError e w s).life = s.life := rfl

@[simp] theorem raiseError_slots (e : BlockError) (w : Word) (s : State) :
    (raiseError e w s).slots = s.slots := rfl

@[simp] theorem raiseError_layout (e : BlockError) (w : Word) (s : State) :
    (raiseError e w s).layout = s.layout := rfl

@[simp] theorem raiseError_next (e : BlockError) (w : Word) (s : State) :
    (raiseError e w s).next = s.next := rfl

@[simp] theorem raiseError_enc (e : BlockError) (w : Word) (s : State) :
    (raiseError e w s).enc = s.enc := rfl

@[simp] theorem raiseError_dacResult (e : BlockError) (w : Word) (s : State) :
    (raiseError e w s).dacResult = s.dacResult := rfl

@[simp] theorem raiseError_host (e : BlockError) (w : Word) (s : State) :
    (raiseError e w s).host = s.host := rfl

@[simp] theorem raiseError_readData (e : BlockError) (w : Word) (s : State) :
    (raiseError e w s).readData = s.readData := rfl

@[simp] theorem raiseError_mmuReports (e : BlockError) (w : Word) (s : State) :
    (raiseError e w s).mmuReports = s.mmuReports := rfl

@[simp] theorem raiseError_cacheReports (e : BlockError) (w : Word) (s : State) :
    (raiseError e w s).cacheReports = s.cacheReports := rfl

@[simp] theorem raiseError_draws (e : BlockError) (w : Word) (s : State) :
    (raiseError e w s).draws = s.draws := rfl

@[simp] theorem raiseError_hw (e : BlockError) (w : Word) (s : State) :
    (raiseError e w s).hw = s.hw := rfl

@[simp] theorem raiseError_dacr (e : BlockError) (w : Word) (s : State) :
    (raiseError e w s).dacr = s.dacr := rfl

@[simp] theorem raiseError_asid (e : BlockError) (w : Word) (s : State) :
    (raiseError e w s).asid = s.asid := rfl

@[simp] theorem raiseError_mmuEn (e : BlockError) (w : Word) (s : State) :
    (raiseError e w s).mmuEn = s.mmuEn := rfl

@[simp] theorem raiseError_icEn (e : BlockError) (w : Word) (s : State) :
    (raiseError e w s).icEn = s.icEn := rfl

@[simp] theorem raiseError_dcEn (e : BlockError) (w : Word) (s : State) :
    (raiseError e w s).dcEn = s.dcEn := rfl

/-! ## Taking an environment answer -/

@[simp] theorem takeMmuReport_opa (s : State) : (takeMmuReport s).opa = s.opa := by
  unfold takeMmuReport; split <;> rfl

@[simp] theorem takeMmuReport_init (s : State) : (takeMmuReport s).init = s.init := by
  unfold takeMmuReport; split <;> rfl

@[simp] theorem takeMmuReport_life (s : State) : (takeMmuReport s).life = s.life := by
  unfold takeMmuReport; split <;> rfl

@[simp] theorem takeMmuReport_halted (s : State) : (takeMmuReport s).halted = s.halted := by
  unfold takeMmuReport; split <;> rfl

@[simp] theorem takeMmuReport_err (s : State) : (takeMmuReport s).err = s.err := by
  unfold takeMmuReport; split <;> rfl

@[simp] theorem takeMmuReport_slots (s : State) : (takeMmuReport s).slots = s.slots := by
  unfold takeMmuReport; split <;> rfl

@[simp] theorem takeMmuReport_layout (s : State) : (takeMmuReport s).layout = s.layout := by
  unfold takeMmuReport; split <;> rfl

@[simp] theorem takeMmuReport_next (s : State) : (takeMmuReport s).next = s.next := by
  unfold takeMmuReport; split <;> rfl

@[simp] theorem takeMmuReport_enc (s : State) : (takeMmuReport s).enc = s.enc := by
  unfold takeMmuReport; split <;> rfl

@[simp] theorem takeMmuReport_dacResult (s : State) : (takeMmuReport s).dacResult = s.dacResult := by
  unfold takeMmuReport; split <;> rfl

@[simp] theorem takeMmuReport_host (s : State) : (takeMmuReport s).host = s.host := by
  unfold takeMmuReport; split <;> rfl

@[simp] theorem takeMmuReport_readData (s : State) : (takeMmuReport s).readData = s.readData := by
  unfold takeMmuReport; split <;> rfl

@[simp] theorem takeMmuReport_cacheReports (s : State) : (takeMmuReport s).cacheReports = s.cacheReports := by
  unfold takeMmuReport; split <;> rfl

@[simp] theorem takeMmuReport_hw (s : State) : (takeMmuReport s).hw = s.hw := by
  unfold takeMmuReport; split <;> rfl

@[simp] theorem takeMmuReport_dacr (s : State) : (takeMmuReport s).dacr = s.dacr := by
  unfold takeMmuReport; split <;> rfl

@[simp] theorem takeMmuReport_asid (s : State) : (takeMmuReport s).asid = s.asid := by
  unfold takeMmuReport; split <;> rfl

@[simp] theorem takeMmuReport_mmuEn (s : State) : (takeMmuReport s).mmuEn = s.mmuEn := by
  unfold takeMmuReport; split <;> rfl

@[simp] theorem takeMmuReport_icEn (s : State) : (takeMmuReport s).icEn = s.icEn := by
  unfold takeMmuReport; split <;> rfl

@[simp] theorem takeMmuReport_dcEn (s : State) : (takeMmuReport s).dcEn = s.dcEn := by
  unfold takeMmuReport; split <;> rfl

@[simp] theorem takeMmuReport_events (s : State) : (takeMmuReport s).events = s.events := by
  unfold takeMmuReport; split <;> rfl

@[simp] theorem takeCacheReport_opa (s : State) : (takeCacheReport s).opa = s.opa := by
  unfold takeCacheReport; split <;> rfl

@[simp] theorem takeCacheReport_init (s : State) : (takeCacheReport s).init = s.init := by
  unfold takeCacheReport; split <;> rfl

@[simp] theorem takeCacheReport_life (s : State) : (takeCacheReport s).life = s.life := by
  unfold takeCacheReport; split <;> rfl

@[simp] theorem takeCacheReport_halted (s : State) : (takeCacheReport s).halted = s.halted := by
  unfold takeCacheReport; split <;> rfl

@[simp] theorem takeCacheReport_err (s : State) : (takeCacheReport s).err = s.err := by
  unfold takeCacheReport; split <;> rfl

@[simp] theorem takeCacheReport_slots (s : State) : (takeCacheReport s).slots = s.slots := by
  unfold takeCacheReport; split <;> rfl

@[simp] theorem takeCacheReport_layout (s : State) : (takeCacheReport s).layout = s.layout := by
  unfold takeCacheReport; split <;> rfl

@[simp] theorem takeCacheReport_next (s : State) : (takeCacheReport s).next = s.next := by
  unfold takeCacheReport; split <;> rfl

@[simp] theorem takeCacheReport_enc (s : State) : (takeCacheReport s).enc = s.enc := by
  unfold takeCacheReport; split <;> rfl

@[simp] theorem takeCacheReport_dacResult (s : State) : (takeCacheReport s).dacResult = s.dacResult := by
  unfold takeCacheReport; split <;> rfl

@[simp] theorem takeCacheReport_host (s : State) : (takeCacheReport s).host = s.host := by
  unfold takeCacheReport; split <;> rfl

@[simp] theorem takeCacheReport_readData (s : State) : (takeCacheReport s).readData = s.readData := by
  unfold takeCacheReport; split <;> rfl

@[simp] theorem takeCacheReport_mmuReports (s : State) : (takeCacheReport s).mmuReports = s.mmuReports := by
  unfold takeCacheReport; split <;> rfl

@[simp] theorem takeCacheReport_hw (s : State) : (takeCacheReport s).hw = s.hw := by
  unfold takeCacheReport; split <;> rfl

@[simp] theorem takeCacheReport_dacr (s : State) : (takeCacheReport s).dacr = s.dacr := by
  unfold takeCacheReport; split <;> rfl

@[simp] theorem takeCacheReport_asid (s : State) : (takeCacheReport s).asid = s.asid := by
  unfold takeCacheReport; split <;> rfl

@[simp] theorem takeCacheReport_mmuEn (s : State) : (takeCacheReport s).mmuEn = s.mmuEn := by
  unfold takeCacheReport; split <;> rfl

@[simp] theorem takeCacheReport_icEn (s : State) : (takeCacheReport s).icEn = s.icEn := by
  unfold takeCacheReport; split <;> rfl

@[simp] theorem takeCacheReport_dcEn (s : State) : (takeCacheReport s).dcEn = s.dcEn := by
  unfold takeCacheReport; split <;> rfl

@[simp] theorem takeCacheReport_events (s : State) : (takeCacheReport s).events = s.events := by
  unfold takeCacheReport; split <;> rfl

theorem takeMmuReport_cons {s : State} {b : Bool} {rest : List Bool} (h : s.mmuReports = b :: rest) :
    takeMmuReport s = { s with mmuReports := rest } := by
  simp [takeMmuReport, h]

theorem takeCacheReport_cons {s : State} {b : Bool × Bool} {rest : List (Bool × Bool)}
    (h : s.cacheReports = b :: rest) : takeCacheReport s = { s with cacheReports := rest } := by
  simp [takeCacheReport, h]

/-- The MMU's answer depends only on the environment's list and the draw counter. -/
theorem mmuReport_congr {s t : State} (hr : t.mmuReports = s.mmuReports) (hd : t.draws = s.draws) :
    mmuReport t = mmuReport s := by
  simp [mmuReport, hr, hd]

/-- The caches' answer depends only on the environment's list and the draw counter. -/
theorem cacheReport_congr {s t : State} (hr : t.cacheReports = s.cacheReports) (hd : t.draws = s.draws) :
    cacheReport t = cacheReport s := by
  simp [cacheReport, hr, hd]

/-! ## `unmap_all` -/

@[simp] theorem unmapAll_next (s : State) : (unmapAll s).next = 0 := rfl

@[simp] theorem unmapAll_layout (s : State) : (unmapAll s).layout = ⟨.uninitialized, 0, 0⟩ := rfl

@[simp] theorem unmapAll_life (s : State) : (unmapAll s).life = .disabled := rfl

@[simp] theorem unmapAll_opa (s : State) : (unmapAll s).opa = s.opa := rfl

@[simp] theorem unmapAll_init (s : State) : (unmapAll s).init = s.init := rfl

@[simp] theorem unmapAll_halted (s : State) : (unmapAll s).halted = s.halted := rfl

@[simp] theorem unmapAll_err (s : State) : (unmapAll s).err = s.err := rfl

@[simp] theorem unmapAll_slots (s : State) : (unmapAll s).slots = s.slots := rfl

@[simp] theorem unmapAll_enc (s : State) : (unmapAll s).enc = s.enc := rfl

@[simp] theorem unmapAll_dacResult (s : State) : (unmapAll s).dacResult = s.dacResult := rfl

@[simp] theorem unmapAll_host (s : State) : (unmapAll s).host = s.host := rfl

@[simp] theorem unmapAll_readData (s : State) : (unmapAll s).readData = s.readData := rfl

@[simp] theorem unmapAll_mmuReports (s : State) : (unmapAll s).mmuReports = s.mmuReports := rfl

@[simp] theorem unmapAll_cacheReports (s : State) : (unmapAll s).cacheReports = s.cacheReports := rfl

@[simp] theorem unmapAll_draws (s : State) : (unmapAll s).draws = s.draws := rfl

@[simp] theorem unmapAll_hw (s : State) : (unmapAll s).hw = s.hw := rfl

@[simp] theorem unmapAll_dacr (s : State) : (unmapAll s).dacr = s.dacr := rfl

@[simp] theorem unmapAll_asid (s : State) : (unmapAll s).asid = s.asid := rfl

@[simp] theorem unmapAll_mmuEn (s : State) : (unmapAll s).mmuEn = s.mmuEn := rfl

@[simp] theorem unmapAll_icEn (s : State) : (unmapAll s).icEn = s.icEn := rfl

@[simp] theorem unmapAll_dcEn (s : State) : (unmapAll s).dcEn = s.dcEn := rfl

@[simp] theorem unmapAll_events (s : State) : (unmapAll s).events = s.events := rfl

/-! ## Writing and counting a pin -/

@[simp] theorem writePin_opa (p : Pin) (s : State) (h : s.next < 8) : (writePin p s h).opa = s.opa := by
  simp [writePin]

@[simp] theorem writePin_init (p : Pin) (s : State) (h : s.next < 8) : (writePin p s h).init = s.init := by
  simp [writePin]

@[simp] theorem writePin_life (p : Pin) (s : State) (h : s.next < 8) : (writePin p s h).life = s.life := by
  simp [writePin]

@[simp] theorem writePin_halted (p : Pin) (s : State) (h : s.next < 8) : (writePin p s h).halted = s.halted := by
  simp [writePin]

@[simp] theorem writePin_err (p : Pin) (s : State) (h : s.next < 8) : (writePin p s h).err = s.err := by
  simp [writePin]

@[simp] theorem writePin_slots (p : Pin) (s : State) (h : s.next < 8) : (writePin p s h).slots = s.slots := by
  simp [writePin]

@[simp] theorem writePin_layout (p : Pin) (s : State) (h : s.next < 8) : (writePin p s h).layout = s.layout := by
  simp [writePin]

@[simp] theorem writePin_enc (p : Pin) (s : State) (h : s.next < 8) : (writePin p s h).enc = s.enc := by
  simp [writePin]

@[simp] theorem writePin_dacResult (p : Pin) (s : State) (h : s.next < 8) : (writePin p s h).dacResult = s.dacResult := by
  simp [writePin]

@[simp] theorem writePin_host (p : Pin) (s : State) (h : s.next < 8) : (writePin p s h).host = s.host := by
  simp [writePin]

@[simp] theorem writePin_readData (p : Pin) (s : State) (h : s.next < 8) : (writePin p s h).readData = s.readData := by
  simp [writePin]

@[simp] theorem writePin_mmuReports (p : Pin) (s : State) (h : s.next < 8) : (writePin p s h).mmuReports = s.mmuReports := by
  simp [writePin]

@[simp] theorem writePin_cacheReports (p : Pin) (s : State) (h : s.next < 8) : (writePin p s h).cacheReports = s.cacheReports := by
  simp [writePin]

@[simp] theorem writePin_draws (p : Pin) (s : State) (h : s.next < 8) : (writePin p s h).draws = s.draws := by
  simp [writePin]

@[simp] theorem writePin_dacr (p : Pin) (s : State) (h : s.next < 8) : (writePin p s h).dacr = s.dacr := by
  simp [writePin]

@[simp] theorem writePin_asid (p : Pin) (s : State) (h : s.next < 8) : (writePin p s h).asid = s.asid := by
  simp [writePin]

@[simp] theorem writePin_mmuEn (p : Pin) (s : State) (h : s.next < 8) : (writePin p s h).mmuEn = s.mmuEn := by
  simp [writePin]

@[simp] theorem writePin_icEn (p : Pin) (s : State) (h : s.next < 8) : (writePin p s h).icEn = s.icEn := by
  simp [writePin]

@[simp] theorem writePin_dcEn (p : Pin) (s : State) (h : s.next < 8) : (writePin p s h).dcEn = s.dcEn := by
  simp [writePin]

@[simp] theorem writePin_next (p : Pin) (s : State) (h : s.next < 8) : (writePin p s h).next = s.next + 1 := rfl

@[simp] theorem writePin_hw (p : Pin) (s : State) (h : s.next < 8) :
    (writePin p s h).hw = s.hw.set s.next p := by
  simp [writePin]

@[simp] theorem writePin_events (p : Pin) (s : State) (h : s.next < 8) :
    (writePin p s h).events = s.events ++ [.pinWrite ⟨s.next, h⟩ p, .barrier] := by
  simp [writePin]

/-! ## The slot file -/

@[simp] theorem slotAt_slotPut (f : Slots) (n : SlotName) (v : Slot) : slotAt (slotPut f n v) n = v := by
  cases n <;> rfl

theorem slotAt_slotPut_ne (f : Slots) {n m : SlotName} (v : Slot) (h : m ≠ n) :
    slotAt (slotPut f n v) m = slotAt f m := by
  cases n <;> cases m <;> first | rfl | exact absurd rfl h

end Sys2Proof.Machine
end

