-- ==== Sys2Proof/Laws/Ops.lean ====
section
/-! SUPPORT. For each shared operation, once, everything it can do: either it raises a named error or it gives one
state. Later proofs cite these instead of unfolding the operation. -/

namespace Sys2Proof.Machine

/-! ## Sequencing -/

@[simp] theorem andThen_running (s : State) (f : State → Progress) : andThen (.running s) f = f s := rfl

@[simp] theorem andThen_raised (s : State) (f : State → Progress) : andThen (.raised s) f = .raised s := rfl

@[simp] theorem andThen_stopWith (e : BlockError) (w : Word) (s : State) (f : State → Progress) :
    andThen (stopWith e w s) f = .raised (raiseError e w s) := rfl

@[simp] theorem finish_running (s : State) : finish (.running s) = .next s := rfl

@[simp] theorem finish_raised (s : State) : finish (.raised s) = .next s := rfl

@[simp] theorem finish_stopWith (e : BlockError) (w : Word) (s : State) :
    finish (stopWith e w s) = .next (raiseError e w s) := rfl

/-- The state a command under way has reached. -/
def Progress.state : Progress → State
  | .running s => s
  | .raised s => s

/-- A command always ends in a next state. -/
theorem finish_eq (p : Progress) : finish p = .next p.state := by
  cases p <;> rfl

/-- A sequence raises in its first part, or runs its second part from where the first ended. -/
theorem andThen_eq_running {p : Progress} {f : State → Progress} {t : State} (h : andThen p f = .running t) :
    ∃ s, p = .running s ∧ f s = .running t := by
  cases p with
  | running s => exact ⟨s, rfl, h⟩
  | raised s => cases h

/-- A property that the first part gives its state, and every continuation keeps, holds at the end. -/
theorem andThen_state_induction {Q : State → Prop} {p : Progress} {f : State → Progress} (hp : Q p.state)
    (hf : ∀ s, p = .running s → Q s → Q (f s).state) : Q (andThen p f).state := by
  cases p with
  | running s => exact hf s rfl hp
  | raised s => exact hp

/-! ## Slots and pins -/

/-- The slot check passes exactly when all five slots are loaded (R79, R85). -/
theorem checkSlots_cases (w : Word) (s : State) :
    (∃ n, firstUnloaded s.slots slotOrder = some n ∧ (slotAt s.slots n).valid = false ∧
      checkSlots w s = .raised (raiseError (.preconditionViolation (.slotNotLoaded n)) w s)) ∨
    ((∀ n, (slotAt s.slots n).valid = true) ∧ checkSlots w s = .running s) := by
  unfold checkSlots
  split
  · next n h =>
    refine .inl ⟨n, h, ?_, rfl⟩
    simpa using List.find?_some h
  · next h =>
    refine .inr ⟨fun n => ?_, rfl⟩
    have := List.find?_eq_none.mp h n (by cases n <;> simp [slotOrder])
    simpa using this

theorem checkSlots_loaded (w : Word) {s : State} (h : ∀ n, (slotAt s.slots n).valid = true) :
    checkSlots w s = .running s := by
  have : firstUnloaded s.slots slotOrder = none := List.find?_eq_none.mpr fun n _ => by simp [h n]
  simp [checkSlots, this]

theorem writePin_eq (p : Pin) (s : State) (h : s.next < 8) : writePin p s h = { s with
    hw := s.hw.set s.next p
    next := s.next + 1
    events := s.events ++ [.pinWrite ⟨s.next, h⟩ p, .barrier] } := by
  simp [writePin]

/-- `pin_commit` raises, leaving all but the record and the history alone, or writes entry `next` (R73). -/
theorem pinCommit_cases (P : Params) (w : Word) (d : Descriptor) (s : State) :
    (∃ e, pinCommit P w d s = .raised (raiseError e w s)) ∨
    (∃ (h : s.next < 8) (p : Pin), aligned d.addr d.gr = true ∧ encodeChecked P d = .ok p ∧
      pinCommit P w d s = .running (writePin p s h)) := by
  unfold pinCommit
  split
  · next ha =>
    split
    · next h =>
      split
      · next e he => exact .inl ⟨e, rfl⟩
      · next p hp => exact .inr ⟨h, p, ha, hp, rfl⟩
    · exact .inl ⟨_, rfl⟩
  · exact .inl ⟨_, rfl⟩

theorem pinCommit_ok {P : Params} (w : Word) {d : Descriptor} {s : State} {p : Pin} (h : s.next < 8)
    (ha : aligned d.addr d.gr = true) (hp : encodeChecked P d = .ok p) :
    pinCommit P w d s = .running (writePin p s h) := by
  simp [pinCommit, ha, h, hp]

/-- `encode` is reached exactly when permission, domain and attribute are legal (R72, R73). -/
theorem encodeChecked_ok {P : Params} {d : Descriptor} {p : Pin} :
    encodeChecked P d = .ok p ↔ ∃ perm attr, permOf d.perm = some perm ∧ attrOf d.attr = some attr ∧
      domOk P.ssDomainPolicy d.dom d.gr = true ∧ p = encodePin P.fixedAsid d.addr d.gr d.dom perm attr := by
  unfold encodeChecked
  constructor
  · intro h
    split at h
    · cases h
    · next perm hperm =>
      split at h
      · next hd =>
        split at h
        · cases h
        · next attr hattr => exact ⟨perm, attr, hperm, hattr, hd, by cases h; rfl⟩
      · cases h
  · rintro ⟨perm, attr, hperm, hattr, hd, rfl⟩
    simp [hperm, hattr, hd]

/-- One more slot pinned: the pin loop goes on from the entry written and counted (R85). -/
theorem pinSlots_cons {P : Params} (w : Word) {n : SlotName} {rest : List SlotName} {s : State} {p : Pin}
    (h : s.next < 8) (ha : aligned (slotAt s.slots n).sec.addr (slotAt s.slots n).sec.gr = true)
    (hp : encodeChecked P (slotAt s.slots n).sec = .ok p) :
    pinSlots P w (n :: rest) s = pinSlots P w rest (countPin (writePin p s h)) := by
  rw [pinSlots, pinCommit_ok w h ha hp, andThen_running]

/-! ## Counting a pin -/

@[simp] theorem countPin_layout (s : State) :
    (countPin s).layout = { s.layout with pinsUsed := s.layout.pinsUsed + 1 } := rfl

@[simp] theorem countPin_opa (s : State) : (countPin s).opa = s.opa := rfl

@[simp] theorem countPin_init (s : State) : (countPin s).init = s.init := rfl

@[simp] theorem countPin_life (s : State) : (countPin s).life = s.life := rfl

@[simp] theorem countPin_halted (s : State) : (countPin s).halted = s.halted := rfl

@[simp] theorem countPin_err (s : State) : (countPin s).err = s.err := rfl

@[simp] theorem countPin_slots (s : State) : (countPin s).slots = s.slots := rfl

@[simp] theorem countPin_next (s : State) : (countPin s).next = s.next := rfl

@[simp] theorem countPin_enc (s : State) : (countPin s).enc = s.enc := rfl

@[simp] theorem countPin_dacResult (s : State) : (countPin s).dacResult = s.dacResult := rfl

@[simp] theorem countPin_host (s : State) : (countPin s).host = s.host := rfl

@[simp] theorem countPin_readData (s : State) : (countPin s).readData = s.readData := rfl

@[simp] theorem countPin_mmuReports (s : State) : (countPin s).mmuReports = s.mmuReports := rfl

@[simp] theorem countPin_cacheReports (s : State) : (countPin s).cacheReports = s.cacheReports := rfl

@[simp] theorem countPin_draws (s : State) : (countPin s).draws = s.draws := rfl

@[simp] theorem countPin_hw (s : State) : (countPin s).hw = s.hw := rfl

@[simp] theorem countPin_dacr (s : State) : (countPin s).dacr = s.dacr := rfl

@[simp] theorem countPin_asid (s : State) : (countPin s).asid = s.asid := rfl

@[simp] theorem countPin_mmuEn (s : State) : (countPin s).mmuEn = s.mmuEn := rfl

@[simp] theorem countPin_icEn (s : State) : (countPin s).icEn = s.icEn := rfl

@[simp] theorem countPin_dcEn (s : State) : (countPin s).dcEn = s.dcEn := rfl

@[simp] theorem countPin_events (s : State) : (countPin s).events = s.events := rfl

/-! ## The self-checks -/

theorem checkMmuOn_cases (w : Word) (s : State) :
    (mmuReport s = true ∧ checkMmuOn w s = .running (takeMmuReport s)) ∨
    (mmuReport s = false ∧ checkMmuOn w s =
      .raised (raiseError (.preconditionViolation .mmuReportsDisabled) w (takeMmuReport s))) := by
  unfold checkMmuOn
  cases h : mmuReport s <;> simp [stopWith]

/-- DISABLE's body drives the MMU off, then unmaps or raises (R86). -/
theorem disableBody_cases (w : Word) (s : State) :
    (mmuReport (driveMmuOff s) = false ∧
      disableBody w s = .running (unmapAll (takeMmuReport (driveMmuOff s)))) ∨
    (mmuReport (driveMmuOff s) = true ∧ disableBody w s =
      .raised (raiseError (.preconditionViolation .mmuReportsEnabled) w (takeMmuReport (driveMmuOff s)))) := by
  unfold disableBody
  cases h : mmuReport (driveMmuOff s) <;> simp [h, stopWith]

theorem driveMmuOff_eq (s : State) : driveMmuOff s = { s with
    mmuEn := false, events := s.events ++ [.barrier, .mmuEnable false, .barrier, .tlbSync, .barrier] } := by
  simp [driveMmuOff]

theorem driveMapping_eq (P : Params) (s : State) : driveMapping P s = { s with
    layout := { s.layout with domAccum := dacCompute s.slots }
    dacr := dacCompute s.slots
    asid := P.fixedAsid
    mmuEn := true
    events := s.events ++ [.dacrWrite (dacCompute s.slots), .barrier, .asidWrite P.fixedAsid, .barrier,
      .mmuEnable true, .barrier] } := by
  simp [driveMapping]

theorem beginCommit_eq (pol : Policy) (s : State) : beginCommit pol s = { s with
    slots := applyPolicy pol s.slots
    layout := { s.layout with pinsUsed := 0 }
    events := s.events ++ [.barrier] } := by
  simp [beginCommit]

end Sys2Proof.Machine
end

