-- ==== Sys2Proof/Laws/Frame.lean ====
section
/-! SUPPORT. Three laws about whole commands, proved once over the shared operations: a view of the state that every
primitive update leaves alone is left alone by COMMIT's and DISABLE's bodies (`Quiet`), a body either leaves the
error record alone or ends halted with its Fatal event last (`Ended`), and COMMIT's body uses its command word for
the record alone (`SameButWord`). -/

namespace Sys2Proof.Machine

/-! ## Views no primitive touches -/

/-- The view `f` of the state is left alone by every update that COMMIT, DISABLE and `raise` are made of. -/
structure Quiet {α : Type} (f : State → α) : Prop where
  slots : ∀ s x, f { s with slots := x } = f s
  layout : ∀ s x, f { s with layout := x } = f s
  next : ∀ s x, f { s with next := x } = f s
  life : ∀ s x, f { s with life := x } = f s
  emit : ∀ e s, f (emit e s) = f s
  record : ∀ s r h, f { s with err := r, halted := h } = f s
  inputs : ∀ s m c d, f { s with mmuReports := m, cacheReports := c, draws := d } = f s

theorem Quiet.raise {α : Type} {f : State → α} (q : Quiet f) (e : BlockError) (w : Word) (s : State) :
    f (raiseError e w s) = f s := by
  rw [raiseError, q.emit, q.record]

theorem Quiet.hwWrite {α : Type} {f : State → α} (q : Quiet f) (e : Event) (s : State) :
    f (hwWrite e s) = f s := by
  rw [Machine.hwWrite, q.emit, q.emit]

theorem Quiet.takeMmuReport {α : Type} {f : State → α} (q : Quiet f) (s : State) :
    f (takeMmuReport s) = f s := by
  unfold Machine.takeMmuReport
  split
  · exact q.inputs s _ _ _
  · exact q.inputs s _ _ _

theorem Quiet.takeCacheReport {α : Type} {f : State → α} (q : Quiet f) (s : State) :
    f (takeCacheReport s) = f s := by
  unfold Machine.takeCacheReport
  split
  · exact q.inputs s _ _ _
  · exact q.inputs s _ _ _

theorem Quiet.writePin {α : Type} {f : State → α} (q : Quiet f) (p : Pin) (s : State) (h : s.next < 8) :
    f (writePin p s h) = f s :=
  (q.next _ _).trans (q.hwWrite _ _)

theorem Quiet.pinCommit {α : Type} {f : State → α} (q : Quiet f) (P : Params) (w : Word) (d : Descriptor)
    (s : State) : f (pinCommit P w d s).state = f s := by
  rcases pinCommit_cases P w d s with ⟨e, he⟩ | ⟨h, p, -, -, hr⟩
  · rw [he]; exact q.raise e w s
  · rw [hr]; exact q.writePin p s h

theorem Quiet.pinSlots {α : Type} {f : State → α} (q : Quiet f) (P : Params) (w : Word) (ns : List SlotName)
    (s : State) : f (pinSlots P w ns s).state = f s := by
  induction ns generalizing s with
  | nil => rfl
  | cons n ns ih =>
    refine andThen_state_induction (Q := fun t => f t = f s) (q.pinCommit P w _ s) fun t _ ht => ?_
    rw [ih]
    exact (q.layout t _).trans ht

/-- COMMIT's body leaves a quiet view alone, wherever it ends (R85). -/
theorem Quiet.commitBody {α : Type} {f : State → α} (q : Quiet f) (P : Params) (w : Word) (pol : Policy)
    (s : State) : f (commitBody P w pol s).state = f s := by
  unfold Machine.commitBody
  split
  · exact q.raise _ w s
  refine andThen_state_induction (Q := fun t => f t = f s) ?_ fun t _ ht => ?_
  · rcases checkSlots_cases w s with ⟨n, -, -, hr⟩ | ⟨-, hr⟩ <;> rw [hr]
    · exact q.raise _ w s
    · rfl
  refine andThen_state_induction (Q := fun t => f t = f s) ?_ fun t _ ht => ?_
  · rw [q.pinSlots]
    exact (q.layout _ _).trans ((q.emit _ _).trans ((q.slots t _).trans ht))
  refine andThen_state_induction (Q := fun t => f t = f s) ?_ fun t _ ht => ?_
  · have hd : f (driveMapping P t) = f s :=
      (q.hwWrite _ _).trans ((q.hwWrite _ _).trans ((q.hwWrite _ _).trans ((q.layout t _).trans ht)))
    rcases checkMmuOn_cases w (driveMapping P t) with ⟨-, hr⟩ | ⟨-, hr⟩ <;> rw [hr]
    · exact (q.takeMmuReport _).trans hd
    · exact (q.raise _ w _).trans ((q.takeMmuReport _).trans hd)
  refine andThen_state_induction (Q := fun t => f t = f s) ?_ fun t _ ht => ?_
  · unfold driveCaches
    split
    · exact ht
    · dsimp only
      split
      · exact (q.takeCacheReport _).trans ((q.hwWrite _ _).trans ht)
      · exact (q.raise _ w _).trans ((q.takeCacheReport _).trans ((q.hwWrite _ _).trans ht))
  exact (q.life { t with layout := { t.layout with committed := .committed } } .mapped).trans
    ((q.layout t _).trans ht)

theorem Quiet.driveMmuOff {α : Type} {f : State → α} (q : Quiet f) (s : State) : f (driveMmuOff s) = f s :=
  (q.emit _ _).trans ((q.emit _ _).trans ((q.hwWrite _ _).trans (q.emit _ s)))

/-- DISABLE's body leaves a quiet view alone, wherever it ends (R86). -/
theorem Quiet.disableBody {α : Type} {f : State → α} (q : Quiet f) (w : Word) (s : State) :
    f (disableBody w s).state = f s := by
  have ht : f (Machine.takeMmuReport (Machine.driveMmuOff s)) = f s :=
    (q.takeMmuReport _).trans (q.driveMmuOff s)
  rcases disableBody_cases w s with ⟨-, hr⟩ | ⟨-, hr⟩ <;> rw [hr]
  · exact (q.life { Machine.takeMmuReport (Machine.driveMmuOff s) with
      next := 0, layout := ⟨.uninitialized, 0, 0⟩ } .disabled).trans
      ((q.next { Machine.takeMmuReport (Machine.driveMmuOff s) with
        layout := ⟨.uninitialized, 0, 0⟩ } 0).trans ((q.layout _ _).trans ht))
  · exact (q.raise _ w _).trans ht

/-- OPA, the host's side, ENC_*, DAC_RESULT and `init` are quiet. -/
theorem quiet_untouched :
    Quiet fun s => (s.opa, s.host, s.readData, s.enc, s.dacResult, s.init) := by
  constructor <;> intros <;> first | rfl | simp

/-! ## How a body ends -/

/-- Started with the error record of `s`, the body completed with it, or ended halted with Fatal last (R90). -/
def Ended (s : State) : Progress → Prop
  | .running t => t.err = s.err ∧ t.halted = s.halted
  | .raised t => t.halted = true ∧ t.events.getLast? = some (.fatal t.err)

theorem ended_stopWith (e : BlockError) (w : Word) (s s' : State) : Ended s' (stopWith e w s) := by
  simp [Ended, stopWith]

theorem ended_raiseError (e : BlockError) (w : Word) (s s' : State) :
    Ended s' (.raised (raiseError e w s)) := ended_stopWith e w s s'

theorem Ended.andThen {s : State} {p : Progress} {f : State → Progress} (hp : Ended s p)
    (hf : ∀ t, t.err = s.err → t.halted = s.halted → Ended s (f t)) : Ended s (andThen p f) := by
  cases p with
  | running t => exact hf t hp.1 hp.2
  | raised t => exact hp

theorem ended_pinSlots (P : Params) (w : Word) (ns : List SlotName) {s s' : State} (he : s.err = s'.err)
    (hh : s.halted = s'.halted) : Ended s' (pinSlots P w ns s) := by
  induction ns generalizing s with
  | nil => exact ⟨he, hh⟩
  | cons n ns ih =>
    refine Ended.andThen ?_ fun t ht hht => ih ht hht
    rcases pinCommit_cases P w (slotAt s.slots n).sec s with ⟨e, hr⟩ | ⟨h, p, -, -, hr⟩ <;> rw [hr]
    · exact ended_raiseError e w s s'
    · exact ⟨by simpa [writePin] using he, by simpa [writePin] using hh⟩

theorem ended_commitBody (P : Params) (w : Word) (pol : Policy) (s : State) :
    Ended s (commitBody P w pol s) := by
  unfold commitBody
  split
  · exact ended_stopWith _ w s s
  refine Ended.andThen ?_ fun t he hh => ?_
  · rcases checkSlots_cases w s with ⟨n, -, -, hr⟩ | ⟨-, hr⟩ <;> rw [hr]
    · exact ended_raiseError _ w s s
    · exact ⟨rfl, rfl⟩
  refine (ended_pinSlots P w _ (by simpa [beginCommit] using he) (by simpa [beginCommit] using hh)).andThen
    fun t he hh => Ended.andThen ?_ fun t he hh => Ended.andThen ?_ fun t he hh => ⟨he, hh⟩
  · rcases checkMmuOn_cases w (driveMapping P t) with ⟨-, hr⟩ | ⟨-, hr⟩ <;> rw [hr]
    · simp [Ended, driveMapping, he, hh]
    · exact ended_raiseError _ w _ s
  · unfold driveCaches
    split
    · exact ⟨he, hh⟩
    · dsimp only
      split
      · simp [Ended, he, hh]
      · exact ended_stopWith _ w _ s

theorem ended_disableBody (w : Word) (s : State) : Ended s (disableBody w s) := by
  rcases disableBody_cases w s with ⟨-, hr⟩ | ⟨-, hr⟩ <;> rw [hr]
  · simp [Ended, driveMmuOff]
  · exact ended_raiseError _ w _ s

/-! ## What the command word is for -/

/-- The same body under two command words: both complete in one state, or both raise one error from one state, each
with its own word in the record (R90). -/
def SameButWord (w w' : Word) (p q : Progress) : Prop :=
  (∃ t, p = .running t ∧ q = .running t) ∨
  (∃ e u, (∀ r, e ≠ .illegalCommand r) ∧ p = .raised (raiseError e w u) ∧ q = .raised (raiseError e w' u))

theorem sameButWord_running (w w' : Word) (s : State) : SameButWord w w' (.running s) (.running s) :=
  .inl ⟨s, rfl, rfl⟩

theorem sameButWord_stopWith (w w' : Word) {e : BlockError} (he : ∀ r, e ≠ .illegalCommand r) (s : State) :
    SameButWord w w' (stopWith e w s) (stopWith e w' s) :=
  .inr ⟨e, s, he, rfl, rfl⟩

theorem SameButWord.andThen {w w' : Word} {p q : Progress} {f g : State → Progress} (h : SameButWord w w' p q)
    (hf : ∀ s, SameButWord w w' (f s) (g s)) : SameButWord w w' (andThen p f) (andThen q g) := by
  rcases h with ⟨t, rfl, rfl⟩ | ⟨e, u, he, rfl, rfl⟩
  · exact hf t
  · exact .inr ⟨e, u, he, rfl, rfl⟩

/-- The encoder's errors do not report the command word. -/
theorem encodeChecked_error {P : Params} {d : Descriptor} {e : BlockError} (h : encodeChecked P d = .error e) :
    ∀ r, e ≠ .illegalCommand r := by
  unfold encodeChecked at h
  repeat' split at h
  all_goals cases h <;> simp

theorem sameButWord_pinCommit (P : Params) (w w' : Word) (d : Descriptor) (s : State) :
    SameButWord w w' (pinCommit P w d s) (pinCommit P w' d s) := by
  unfold pinCommit
  split
  · split
    · split
      · next e he => exact sameButWord_stopWith w w' (encodeChecked_error he) s
      · exact sameButWord_running w w' _
    · exact sameButWord_stopWith w w' (by simp) s
  · exact sameButWord_stopWith w w' (by simp) s

theorem sameButWord_pinSlots (P : Params) (w w' : Word) (ns : List SlotName) (s : State) :
    SameButWord w w' (pinSlots P w ns s) (pinSlots P w' ns s) := by
  induction ns generalizing s with
  | nil => exact sameButWord_running w w' s
  | cons n ns ih => exact (sameButWord_pinCommit P w w' _ s).andThen fun t => ih (countPin t)

/-- COMMIT's body uses its command word for the error record alone (R85, R90). -/
theorem sameButWord_commitBody (P : Params) (w w' : Word) (pol : Policy) (s : State) :
    SameButWord w w' (commitBody P w pol s) (commitBody P w' pol s) := by
  unfold commitBody
  split
  · exact sameButWord_stopWith w w' (by simp) s
  refine SameButWord.andThen ?_ fun t => (sameButWord_pinSlots P w w' _ _).andThen fun t =>
    SameButWord.andThen ?_ fun t => SameButWord.andThen ?_ fun t => sameButWord_running w w' _
  · unfold checkSlots
    split
    · exact sameButWord_stopWith w w' (by simp) s
    · exact sameButWord_running w w' s
  · unfold checkMmuOn
    split
    · exact sameButWord_running w w' _
    · exact sameButWord_stopWith w w' (by simp) _
  · unfold driveCaches
    split
    · exact sameButWord_running w w' t
    · dsimp only
      split
      · exact sameButWord_running w w' _
      · exact sameButWord_stopWith w w' (by simp) _

/-- A COMMIT that completes ends Mapped (R85). -/
theorem commitBody_running_life {P : Params} {w : Word} {pol : Policy} {s t : State}
    (h : commitBody P w pol s = .running t) : t.life = .mapped := by
  unfold commitBody at h
  split at h
  · cases h
  obtain ⟨_, -, h⟩ := andThen_eq_running h
  obtain ⟨_, -, h⟩ := andThen_eq_running h
  obtain ⟨_, -, h⟩ := andThen_eq_running h
  obtain ⟨_, -, h⟩ := andThen_eq_running h
  cases h
  rfl

end Sys2Proof.Machine
end

