-- ==== Sys2Proof/Laws/PerInstr.lean ====
section
/-! SUPPORT. Family `Encoding`: a well-formed command's word decodes to that command, one lemma per constructor
(R54 to R59). -/

namespace Sys2Proof.Laws.Encoding

/-- Decoding the word of a well-formed command gives the command back. -/
def Statement (i : Instr) : Prop := i.wellFormed = true → decode (encodeWord i) = .ok i

theorem init : Statement .init := fun _ => by
  decide

theorem setsec (slot : BitVec 3) (gr : BitVec 1) (dom : BitVec 8) (perm : BitVec 2) (attr : BitVec 3) :
    Statement (.setsec slot gr dom perm attr) := fun h => by
  have h' : slot.toNat ≤ 4 := by simpa [Instr.wellFormed] using h
  simp [decode, encodeWord, decodeD, opField_wordD, slotField_wordD, grField_wordD, domField_wordD,
    permField_wordD, attrField_wordD, low_wordD, h']

theorem encode (gr : BitVec 1) (dom : BitVec 8) (perm : BitVec 2) (attr : BitVec 3) :
    Statement (.encode gr dom perm attr) := fun _ => by
  simp [decode, encodeWord, decodeD, opField_wordD, slotField_wordD, grField_wordD, domField_wordD,
    permField_wordD, attrField_wordD, low_wordD]

theorem pin (gr : BitVec 1) (dom : BitVec 8) (perm : BitVec 2) (attr : BitVec 3) :
    Statement (.pin gr dom perm attr) := fun _ => by
  simp [decode, encodeWord, decodeD, opField_wordD, slotField_wordD, grField_wordD, domField_wordD,
    permField_wordD, attrField_wordD, low_wordD]

theorem daccalc : Statement .daccalc := fun _ => by
  decide

theorem dacset : Statement .dacset := fun _ => by
  decide

theorem commit (pol : BitVec 2) : Statement (.commit pol) := fun h => by
  have h' : pol ≠ 3 := by simpa [Instr.wellFormed] using h
  simpa [decode, encodeWord, decodeP, opField_wordP, polField_wordP, low_wordP] using h'

theorem disable : Statement .disable := fun _ => by
  decide

theorem remap (pol : BitVec 2) : Statement (.remap pol) := fun h => by
  have h' : pol ≠ 3 := by simpa [Instr.wellFormed] using h
  simpa [decode, encodeWord, decodeP, opField_wordP, polField_wordP, low_wordP] using h'

end Sys2Proof.Laws.Encoding
end

