-- ==== Sys2Proof/Laws/Step.lean ====
section
/-! SUPPORT. What one step can do, once: the equations of `step` for each kind of pending host move, and the
inversion of a step that gave a next state. -/

namespace Sys2Proof.Machine

/-- An admitted access inside the window runs (R12, R41). -/
theorem portAccess_ok {n : Nat} (act : Host.Outcome State Fault Refusal) (h : n < 0x200) (ha : n % 4 = 0) :
    portAccess 4 n act = act := by
  have : ¬ 0x200 ≤ n := Nat.not_le.mpr h
  simp [portAccess, admitted, ha, this]

/-- An access that gives a next state was an admitted one inside the window. -/
theorem portAccess_next {b n : Nat} {act : Host.Outcome State Fault Refusal} {t : State}
    (h : portAccess b n act = .next t) : b = 4 ∧ n % 4 = 0 ∧ n < 0x200 ∧ act = .next t := by
  unfold portAccess at h
  split at h
  · cases h
  · next ha =>
    split at h
    · cases h
    · next hn =>
      simp [admitted] at ha
      exact ⟨ha.1, ha.2, Nat.not_le.mp hn, h⟩

theorem step_write {s : State} {n : Nat} {v : Word} {rest : List HostMove} (hh : s.host = .write 4 n v :: rest)
    (h : n < 0x200) (ha : n % 4 = 0) : step s = hostWrite n v { s with host := rest } := by
  unfold step moveOnce
  rw [hh]
  exact portAccess_ok _ h ha

theorem step_read {s : State} {n : Nat} {rest : List HostMove} (hh : s.host = .read 4 n :: rest)
    (h : n < 0x200) (ha : n % 4 = 0) : step s = .next (hostRead n { s with host := rest }) := by
  unfold step moveOnce
  rw [hh]
  exact portAccess_ok _ h ha

/-- A CMD write issues its command (R15). -/
theorem step_cmd {s : State} {w : Word} {rest : List HostMove} (hh : s.host = .write 4 0x000 w :: rest) :
    step s = issueCommand w { s with host := rest } :=
  step_write hh (by decide) (by decide)

/-- An admitted write runs a command, stores OPA, or does nothing (R13 to R15). -/
theorem hostWrite_next {n : Nat} {v : Word} {s t : State} (h : hostWrite n v s = .next t) :
    (n = 0x000 ∧ s.halted = false ∧ ∃ i, decode v = .ok i ∧ exec i s = .next t) ∨
    (n = 0x000 ∧ s.halted = false ∧ ∃ e, t = raiseError (.illegalCommand e) v s) ∨
    (n = 0x004 ∧ t = { s with opa := v }) ∨ t = s := by
  unfold hostWrite at h
  split at h
  · next hn =>
    unfold issueCommand at h
    split at h
    · cases h; simp
    · next hs =>
      have hs' : s.halted = false := by simpa using hs
      split at h
      · next i hi => exact .inl ⟨hn, hs', i, hi, h⟩
      · next e _ => cases h; exact .inr (.inl ⟨hn, hs', e, rfl⟩)
  · split at h
    · next hn => cases h; exact .inr (.inr (.inl ⟨hn, rfl⟩))
    · cases h; simp

/-- What a step that gives a next state did: nothing, a reset, a read, or an admitted write. -/
theorem step_next {s t : State} (h : step s = .next t) :
    (s.host = [] ∧ t = s) ∨
    (∃ rest, s.host = .reset :: rest ∧ t = resetBlock { s with host := rest }) ∨
    (∃ n rest, s.host = .read 4 n :: rest ∧ t = hostRead n { s with host := rest }) ∨
    (∃ n v rest, s.host = .write 4 n v :: rest ∧ hostWrite n v { s with host := rest } = .next t) := by
  unfold step moveOnce at h
  split at h
  · next hh => cases h; exact .inl ⟨hh, rfl⟩
  · next m rest hh =>
    cases m with
    | write b n v =>
      obtain ⟨rfl, _, _, hw⟩ := portAccess_next h
      exact .inr (.inr (.inr ⟨n, v, rest, hh, hw⟩))
    | read b n =>
      obtain ⟨rfl, _, _, hr⟩ := portAccess_next h
      cases hr
      exact .inr (.inr (.inl ⟨n, rest, hh, rfl⟩))
    | reset => cases h; exact .inr (.inl ⟨rest, hh, rfl⟩)

end Sys2Proof.Machine
end

