-- ==== Sys2Proof/Tests/Slice0.lean ====
section
/-! SUPPORT. Tests: ill-formed terms, words written out from the encodings, one-step results from
95_test_vectors.md, and a witness for the hypotheses of each statement. Every expected value comes from the spec's
tables or vectors. -/

namespace Sys2Proof.Tests

open Sys2Proof.Machine Sys2Proof.Safety Sys2Proof.Claims

/-! ## Well-formedness (R59, R60) -/

theorem test_setsec_slot5_ill_formed : (Instr.setsec 5 0 0 0 0).wellFormed = false := by decide
theorem test_setsec_slot4_well_formed : (Instr.setsec 4 1 255 3 7).wellFormed = true := by decide
theorem test_commit_reserved_policy_ill_formed : (Instr.commit 3).wellFormed = false := by decide
theorem test_remap_reserved_policy_ill_formed : (Instr.remap 3).wellFormed = false := by decide

/-! ## Decoding, bit by bit (R53 to R58) -/

/-- INIT: OP 0001, then zeros. -/
theorem test_decode_init : decode 0b00010000000000000000000000000000 = .ok .init := by decide
/-- SETSEC heap, 1M, 4, priv, unc: OP 0010, SLOT 011, GR 0, DOM 00000100, PERM 00, ATTR 010. -/
theorem test_decode_setsec : decode 0b00100110000001000001000000000000 = .ok (.setsec 3 0 4 0 2) := by decide
/-- ENCODE 16M, 7, priv, wtna: OP 0011, SLOT 000, GR 1, DOM 00000111, PERM 00, ATTR 101. -/
theorem test_decode_encode : decode 0b00110001000001110010100000000000 = .ok (.encode 1 7 0 5) := by decide
/-- PIN 1M, 5, user, wba: OP 0100, SLOT 000, GR 0, DOM 00000101, PERM 01, ATTR 011. -/
theorem test_decode_pin : decode 0b01000000000001010101100000000000 = .ok (.pin 0 5 1 3) := by decide
/-- DACCALC: OP 0101. -/
theorem test_decode_daccalc : decode 0b01010000000000000000000000000000 = .ok .daccalc := by decide
/-- DACSET: OP 0110. -/
theorem test_decode_dacset : decode 0b01100000000000000000000000000000 = .ok .dacset := by decide
/-- COMMIT cached: OP 0111, POL 01. -/
theorem test_decode_commit : decode 0b01110100000000000000000000000000 = .ok (.commit 1) := by decide
/-- DISABLE: OP 1000. -/
theorem test_decode_disable : decode 0b10000000000000000000000000000000 = .ok .disable := by decide
/-- REMAP uncached: OP 1001, POL 10. -/
theorem test_decode_remap : decode 0b10011000000000000000000000000000 = .ok (.remap 2) := by decide

/-- V1: reason 1 wins over reserved bits. -/
theorem test_decode_reserved_opcode : decode 0xFFFFFFFF = .error .reservedOpcode := by decide
/-- V1: DISABLE with bit 26 set. -/
theorem test_decode_reserved_bits : decode 0x84000000 = .error .reservedBits := by decide
/-- V1: ENCODE SLOT = 7. -/
theorem test_decode_bad_slot : decode 0x3E011000 = .error .badSlot := by decide
/-- V1: REMAP POL = 0b11. -/
theorem test_decode_reserved_policy : decode 0x9C000000 = .error .reservedPolicy := by decide

/-! ## Helpers -/

/-- The next state of an outcome (the reset state where there is none). -/
def after (o : Host.Outcome State Fault Refusal) : State :=
  match o with
  | .next t => t
  | .fault _ => State.reset
  | .refused _ => State.reset

/-- The parameters of the vectors: `FIXED_ASID = 1`, `ACCEPT`, and the addresses of P1 (95_test_vectors.md). -/
def vectorParams : Params := ⟨1, .accept, 0x00000000, 0x07F00000, 0x08F00000, 0xE0000000⟩

/-- A loaded slot. -/
def loaded (addr : Word) (gr : BitVec 1) (dom : BitVec 8) (perm : BitVec 2) (attr : BitVec 3) : Slot :=
  ⟨true, ⟨addr, gr, dom, perm, attr⟩⟩

/-- The slot file of program P1. -/
def p1Slots : Slots :=
  ⟨loaded 0x00000000 0 1 0 2, loaded 0x07F00000 0 1 0 2, loaded 0x08F00000 0 3 0 2, loaded 0x00100000 0 4 0 2,
    loaded 0x20000000 1 0 0 0⟩

/-- The state after INIT and P1's SETSECs, with a faithful environment's answers to one COMMIT. -/
def beforeCommit : State :=
  { after (execInit State.reset) with slots := p1Slots, mmuReports := [true], cacheReports := [(true, true)] }

/-- The state after P1, with the environment's answers to a DISABLE and a REMAP. -/
def afterP1 : State :=
  { after (finish (commitWith vectorParams 0x70000000 .asIs beforeCommit)) with mmuReports := [false, true] }

/-! ## One step of each command (95_test_vectors.md) -/

/-- V6: INIT gives 24 events. -/
theorem test_init_events : (after (exec .init State.reset)).events.length = 24 := by decide
/-- V6: a second INIT halts with (5, 1, 0). -/
theorem test_init_twice : (after (exec .init beforeCommit)).err = ⟨5, 0x10000000, 1, 0⟩ := by decide
/-- V3: SETSEC keeps raw PERM 3 and ATTR 7. -/
theorem test_setsec_raw_codes :
    readRegister (after (exec (.setsec 3 0 4 3 7) { State.reset with opa := 0x00100000 })) 0x11C = 0x0004F800 := by
  decide
/-- V3: SETSEC after P1 halts with (6, 8, 3). -/
theorem test_setsec_mapped : (after (exec (.setsec 3 0 4 0 2) afterP1)).err = ⟨6, 0x26041000, 8, 3⟩ := by decide
/-- V2: top section, domain 15, user, wba. -/
theorem test_encode_top : encodePin 1 0xFFF00000 0 15 .userReadWrite .writeBackAllocate =
    ⟨0xFFF00001, 0xFFF000C7, 0x0000078E⟩ := by decide
/-- V2: permission before domain. -/
theorem test_encode_order : (after (exec (.encode 0 16 2 6) { State.reset with opa := 0x00100000 })).err =
    ⟨4, 0x3010B000, 2, 0⟩ := by decide
/-- V2: a super-section with domain 7 is refused under REJECT. -/
theorem test_encode_reject : domOk .reject 7 1 = false ∧ domOk .accept 7 1 = true := by decide
/-- V4: PIN writes entry 0 and sets STATUS to 9. -/
theorem test_pin_device : (after (finish (pinOnly vectorParams 0x41000000 ⟨0x20000000, 1, 0, 0, 0⟩
    { beforeCommit with slots := Slots.empty }))).hw[0] = ⟨0x20000001, 0x20000003, 0⟩ := by decide
/-- V4: with eight pins PIN halts with (3, 8, 8). -/
theorem test_pin_capacity : (after (exec (.pin 0 1 0 2) { beforeCommit with next := 8, opa := 0x00800000 })).err =
    ⟨3, 0x40011000, 8, 8⟩ := by decide
/-- V5: P1's slots give 0x145. -/
theorem test_daccalc_p1 : (after (exec .daccalc { State.reset with slots := p1Slots })).dacResult = 0x145 := by decide
/-- V5: domains 0, 15, 7, 8, 0 give 0x40014001. -/
theorem test_daccalc_repeated : dacCompute ⟨loaded 0 0 0 0 0, loaded 0 0 15 0 0, loaded 0 0 7 0 0,
    loaded 0 0 8 0 0, loaded 0 0 0 0 0⟩ = 0x40014001 := by decide
/-- V5: DACSET before INIT halts with (6, 6, 0). -/
theorem test_dacset_before_init : (after (exec .dacset { State.reset with opa := 0x45 })).err =
    ⟨6, 0x60000000, 6, 0⟩ := by decide
/-- V5: DACSET while Mapped leaves LAYOUT_DOM. -/
theorem test_dacset_mapped : (after (exec .dacset { afterP1 with opa := 0x45 })).dacr = 0x45 ∧
    (after (exec .dacset { afterP1 with opa := 0x45 })).layout.domAccum = 0x145 := by decide
/-- P1: STATUS after COMMIT. -/
theorem test_commit_status : statusWord afterP1 = 0x00001FAB := by decide
/-- V6: COMMIT when the MMU reports 0. -/
theorem test_commit_mmu_check :
    statusWord (after (exec (.commit 0) { beforeCommit with mmuReports := [false] })) = 0x00001FAD := by decide
/-- P1 step 7: the pin events of COMMIT. -/
theorem test_commit_pins : afterP1.hw = #v[⟨0x00000001, 0x000000C3, 0x88⟩, ⟨0x07F00001, 0x07F000C3, 0x88⟩,
    ⟨0x08F00001, 0x08F000C3, 0x188⟩, ⟨0x00100001, 0x001000C3, 0x208⟩, ⟨0x20000001, 0x20000003, 0⟩,
    ⟨0, 0, 0⟩, ⟨0, 0, 0⟩, ⟨0, 0, 0⟩] := by decide
/-- P3 step 8: STATUS after DISABLE. -/
theorem test_disable_status : statusWord (after (exec .disable afterP1)) = 0x00000F81 := by decide
/-- V6: DISABLE when the MMU still reports 1. -/
theorem test_disable_check :
    statusWord (after (exec .disable { afterP1 with mmuReports := [true] })) = 0x00000FAF := by decide
/-- P3 step 11: REMAP uncached from Mapped. -/
theorem test_remap_mapped : statusWord (after (exec (.remap 2)
    { afterP1 with cacheReports := [(false, false)] })) = 0x00001FAB := by decide
/-- V6: REMAP before INIT halts with (6, 6, 0). -/
theorem test_remap_before_init : (after (exec (.remap 0) State.reset)).err = ⟨6, 0x90000000, 6, 0⟩ := by decide

/-! ## The host port -/

/-- V1: the first command after reset is OP F. -/
theorem test_step_illegal : (after (step (State.reset.withFetchWord 32 0xFFFFFFFF))).err =
    ⟨7, 0xFFFFFFFF, 0xFFFFFFFF, 1⟩ := by decide
/-- V3: SETSEC device from reset, address 0: STATUS 0x800. -/
theorem test_step_setsec : statusWord (after (step (State.reset.withFetchWord 32 0x29000000))) = 0x800 := by decide
/-- The table's word of DISABLE decodes. -/
theorem test_table_word : decodeTableWord 32 0x80000000 = some .disable := by decide
/-- R40: lane 0 of STATUS is bits 7 to 0. -/
theorem test_lane : registerLane afterP1 0x008 0 = 0xAB ∧ registerLane afterP1 0x008 1 = 0x1F := by decide
/-- The reset event clears a halted block. -/
theorem test_reset_event : (after (step { State.reset with halted := true, host := [.reset] })).halted = false := by
  decide

/-! ## The assembler (R62 to R65, E6) -/

/-- R74's example: SETSEC heap, 0x00100000, 1M, 4, priv, unc. -/
theorem test_asm_setsec : (parseLine [.word "SETSEC", .word "heap", .num 0x00100000, .word "1M", .num 4,
    .word "priv", .word "unc"]).map asmMoves = some [.write 4 4 0x00100000, .write 4 0 0x26041000] := by decide
/-- E6: SETSEC.DEVICE device, 0x20000000. -/
theorem test_asm_device : ((expandPseudo vectorParams (.setsecDevice 4 0x20000000)).map asmMoves) =
    [[.write 4 4 0x20000000, .write 4 0 0x29000000]] := by decide
/-- R62: `REMAP` alone is `REMAP asis`. -/
theorem test_asm_remap_default : (parseLine [.word "REMAP"]).map asmMoves = some [.write 4 0 0x90000000] := by decide

/-! ## Witnesses: states and operands that meet the hypotheses of each statement -/

/-- A host about to do these moves on a block right after reset. -/
def hosted (ms : List HostMove) : State := { State.reset with host := ms }

/-- The state right after reset, but for OPA. -/
def withOpa (v : Word) : State := { State.reset with opa := v }

/-- A state after INIT with this many pins used and this OPA. -/
def initialized (next : Nat) (opa : Word) : State := { beforeCommit with next := next, opa := opa }

/-- The pins the encoder gives for a slot file under a policy. -/
def pinsOf (pol : Policy) (f : Slots) (n : SlotName) : Pin :=
  match encodeChecked Config.params (slotAt (applyPolicy pol f) n).sec with
  | .ok p => p
  | .error _ => Pin.zero

/-- P1's slots with the device's attribute code illegal. -/
def badDevice : Slots := { p1Slots with device := loaded 0x20000000 1 0 0 7 }

/-- P1's slots with the heap's permission code illegal. -/
def badHeap : Slots := { p1Slots with heap := loaded 0x00100000 0 4 2 2 }

theorem test_witness_decode_of_encode :
    (Instr.setsec 4 1 255 3 7).wellFormed = true ∧ (Instr.remap 2).wellFormed = true := by decide

theorem test_witness_encode_of_decode : decode 0x28FFF800 = .ok (.setsec 4 0 255 3 7) := by decide

/-- R59, one word at the edge of each clause: OP 0 and A, a reserved bit, SLOT 5 and 1, POL 3. -/
theorem test_witness_illegal_words :
    (0x00000000 : Word).toNat / 2 ^ 28 = 0 ∧ (0xA0000000 : Word).toNat / 2 ^ 28 = 10 ∧ (0x90000001 : Word) &&& mustBeZero 9 ≠ 0 ∧
    (0x30000400 : Word) &&& mustBeZero 3 ≠ 0 ∧ (0x2A000000 : Word) &&& mustBeZero 2 = 0 ∧
    (0x2A000000 : Word).toNat / 2 ^ 25 % 8 = 5 ∧ (0x42000000 : Word) &&& mustBeZero 4 = 0 ∧ (0x42000000 : Word).toNat / 2 ^ 25 % 8 = 1 ∧
    (0x7C000000 : Word) &&& mustBeZero 7 = 0 ∧ (0x7C000000 : Word).toNat / 2 ^ 26 % 4 = 3 ∧
    (0x28000000 : Word) &&& mustBeZero 2 = 0 ∧ (hosted [.write 4 0 0xA0000000]).halted = false := by decide

theorem test_witness_ill_formed_terms : 5 ≤ (5 : BitVec 3).toNat ∧ 5 ≤ (7 : BitVec 3).toNat := by decide

theorem test_witness_step_runs : (hosted [.write 4 0 0x10000000]).host = .write 4 0x000 0x10000000 :: [] ∧
    decode 0x10000000 = .ok .init ∧ (hosted [.write 4 0 0x10000000]).halted = false := by decide

theorem test_witness_idle : State.reset.host = [] := by decide

theorem test_witness_opa : (hosted [.write 4 4 7]).host = .write 4 0x004 7 :: [] ∧
    exec .daccalc { State.reset with slots := p1Slots } =
      .next (after (exec .daccalc { State.reset with slots := p1Slots })) := ⟨by decide, rfl⟩

/-- R12, R13: the first and last ignored write offsets, and reserved offsets at each range's edges. -/
theorem test_witness_other_accesses : (hosted [.write 4 0x008 1]).host = .write 4 0x008 1 :: [] ∧
    (hosted [.write 4 0x1FC 1]).host = .write 4 0x1FC 1 :: [] ∧ (hosted [.read 4 0x1FC]).host = .read 4 0x1FC :: [] ∧
    0x1FC < 0x200 ∧ 0x1FC % 4 = 0 := by decide

theorem test_witness_reserved_offsets : ReservedOffset 0x04C ∧ ReservedOffset 0x0BC ∧ ReservedOffset 0x0C0 ∧
    ReservedOffset 0x0FC ∧ ReservedOffset 0x128 ∧ ReservedOffset 0x1FC := by
  refine ⟨?_, ?_, ?_, ?_, ?_, ?_⟩ <;> (unfold ReservedOffset; decide)

/-- R12: the named registers next to those ranges. -/
theorem test_named_offsets : ¬ ReservedOffset 0x124 ∧ ¬ ReservedOffset 0x100 ∧ ¬ ReservedOffset 0x048 ∧
    ¬ ReservedOffset 0x03C := by
  refine ⟨?_, ?_, ?_, ?_⟩ <;> (unfold ReservedOffset; decide)

theorem test_witness_window : 0x1FF < 0x200 ∧ windowOffset vectorParams 0xE00001FF = some 0x1FF ∧
    windowOffset vectorParams 0xE0000200 = none := by decide

/-- A step that is neither a CMD write nor a reset: an OPA write. -/
theorem test_witness_status_stays : ∃ s t, (∀ w rest, s.host ≠ .write 4 0x000 w :: rest) ∧ ¬ ResetNext s ∧
    step s = .next t :=
  ⟨hosted [.write 4 4 7], _, (by intro w rest h; cases h), (by rintro ⟨rest, h⟩; cases h), rfl⟩

theorem test_witness_unadmitted : (hosted [.write 2 0 1]).host = .write 2 0 1 :: [] ∧
    (hosted [.read 4 0x00A]).host = .read 4 0x00A :: [] ∧ (2 ≠ 4 ∨ 0 % 4 ≠ 0) ∧ (4 ≠ 4 ∨ 0x00A % 4 ≠ 0) := by decide

theorem test_witness_reset_event : ({ afterP1 with halted := true, host := [.reset] } : State).host = .reset :: [] := by
  decide

/-- A halted block with an OPA write to come, which gives a next state. -/
theorem test_witness_halted : ∃ s t, Faulted s ∧ ¬ ResetNext s ∧ step s = .next t ∧ t.opa = 7 :=
  ⟨{ hosted [.write 4 4 7] with halted := true }, _, rfl, (by rintro ⟨rest, h⟩; cases h), rfl, rfl⟩

/-- R74, one witness per clause, with domain 16 and 15 and the first and last slot. -/
theorem test_witness_setsec : slotOf 0 = some .code ∧ slotOf 4 = some .device ∧ afterP1.life = .mapped ∧
    (withOpa 0x00080000).life = .disabled ∧ aligned (withOpa 0x00080000).opa 0 = false ∧
    (withOpa 0xFFF00000).life = .disabled ∧ aligned (withOpa 0xFFF00000).opa 0 = true ∧
    domOk Config.params.ssDomainPolicy 16 0 = false ∧ domOk Config.params.ssDomainPolicy 15 0 = true := by decide

/-- R75, the codes at the edge of each clause. -/
theorem test_witness_encode : aligned (withOpa 0x00100000).opa 1 = false ∧ aligned (withOpa 0xFFF00000).opa 0 = true ∧
    permOf 2 = none ∧ permOf 1 ≠ none ∧ domOk Config.params.ssDomainPolicy 16 0 = false ∧
    domOk Config.params.ssDomainPolicy 15 0 = true ∧ attrOf 6 = none ∧ permOf 1 = some .userReadWrite ∧
    attrOf 5 = some .writeThroughNoAllocate := by decide

theorem test_witness_aligned : aligned 0xFFF00000 0 = true ∧ aligned 0xFF000000 1 = true := by decide

/-- R73: the last entry, with a legal descriptor. -/
theorem test_witness_pin : (initialized 7 0x00800000).next < 8 ∧ (initialized 7 0x00800000).init = true ∧
    Encodes ⟨(initialized 7 0x00800000).opa, 0, 15, 1, 5⟩
      (encodePin Config.params.fixedAsid 0x00800000 0 15 .userReadWrite .writeThroughNoAllocate) :=
  ⟨by decide, by decide, by decide, rfl⟩

/-- R76: the clauses on `next` meet at 8, those on the codes as in R75. -/
theorem test_witness_pin_errors : State.reset.init = false ∧ (initialized 8 0x00080000).init = true ∧
    aligned (initialized 8 0x00080000).opa 0 = false ∧ (initialized 8 0x00100000).init = true ∧
    aligned (initialized 8 0x00100000).opa 0 = true ∧ 8 ≤ (initialized 8 0x00100000).next ∧
    (initialized 7 0x00100000).init = true ∧ aligned (initialized 7 0x00100000).opa 0 = true ∧
    (initialized 7 0x00100000).next < 8 ∧ permOf 3 = none ∧ permOf 0 ≠ none ∧
    domOk Config.params.ssDomainPolicy 16 0 = false ∧ domOk Config.params.ssDomainPolicy 15 0 = true ∧
    attrOf 7 = none := by decide

theorem allLoaded_p1 : AllLoaded p1Slots := by intro n; cases n <;> rfl

/-- The first and the last slot as the lowest one that is not loaded. -/
theorem test_witness_unloaded : AllLoaded p1Slots ∧ LowestUnloaded Slots.empty .code ∧
    LowestUnloaded { p1Slots with device := Slot.empty } .device := by
  refine ⟨allLoaded_p1, ⟨rfl, ?_⟩, rfl, ?_⟩ <;> intro m hm <;> cases m <;> revert hm <;> decide

/-- P1 references domain 1 and not domain 15. -/
theorem test_witness_domains : (∃ n, (slotAt p1Slots n).sec.dom.extractLsb' 0 4 = 1) ∧
    ∀ n, (slotAt p1Slots n).sec.dom.extractLsb' 0 4 ≠ 15 :=
  ⟨⟨.code, by decide⟩, by intro n; cases n <;> decide⟩

/-- DACSET's and INIT's two cases. -/
theorem test_witness_init : State.reset.init = false ∧ beforeCommit.init = true := by decide

theorem layoutEncodes_p1 (pol : Policy) : LayoutEncodes pol p1Slots (pinsOf pol p1Slots) := by
  refine ⟨allLoaded_p1, fun n => ?_⟩
  cases pol <;> cases n <;> exact ⟨by decide, rfl⟩

/-- `beforeCommit` with this many pins used and these answers to come. -/
def committing (next : Nat) (mmu : List Bool) (caches : List (Bool × Bool)) : State :=
  { beforeCommit with next := next, mmuReports := mmu, cacheReports := caches }

/-- The hypotheses that the statements about COMMIT from Disabled share. -/
theorem committing_ready (next : Nat) (mmu : List Bool) (caches : List (Bool × Bool)) (pol : Policy) :
    (committing next mmu caches).init = true ∧ (committing next mmu caches).life = .disabled ∧
    LayoutEncodes pol (committing next mmu caches).slots (pinsOf pol p1Slots) :=
  ⟨rfl, rfl, layoutEncodes_p1 pol⟩

/-- COMMIT and REMAP from Disabled, at `next` 0 and 3, under AS_IS and CACHED (with `committing_ready`). -/
theorem test_witness_commit : (committing 0 [true] []).next ≤ 3 ∧ policyOf 0 = some .asIs ∧
    mmuReport (committing 0 [true] []) = true ∧ CachesAgree .asIs (takeMmuReport (committing 0 [true] [])) ∧
    (committing 3 [true] [(true, true)]).next ≤ 3 ∧ policyOf 1 = some .cached ∧
    mmuReport (committing 3 [true] [(true, true)]) = true ∧
    CachesAgree .cached (takeMmuReport (committing 3 [true] [(true, true)])) :=
  ⟨by decide, by decide, by decide, (fun _ h => by cases h), by decide, by decide, by decide,
    (fun _ h => by cases h; decide)⟩

theorem test_witness_commit_guards : (2 : BitVec 2) ≠ 3 ∧ State.reset.init = false ∧ afterP1.init = true ∧
    afterP1.life = .mapped ∧ beforeCommit.life = .disabled ∧
    LowestUnloaded { beforeCommit with slots := { p1Slots with device := Slot.empty } }.slots .device :=
  ⟨by decide, by decide, by decide, by decide, by decide, test_witness_unloaded.2.2⟩

/-- The MMU reports 0; the caches report (1, 0) where CACHED requests (1, 1) (with `committing_ready`). -/
theorem test_witness_commit_checks : (committing 3 [false] []).next ≤ 3 ∧
    mmuReport (committing 3 [false] []) = false ∧ policyOf 1 = some .cached ∧
    mmuReport (committing 3 [true] [(true, false)]) = true ∧ cacheTarget .cached = some (true, true) ∧
    cacheReport (takeMmuReport (committing 3 [true] [(true, false)])) = (true, false) ∧
    ((true, false) : Bool × Bool) ≠ (true, true) := by decide

/-- An illegal permission in slot 3, with `next` as large as the statement allows. -/
theorem test_witness_bad_permission : ∃ s : State, policyOf 0 = some .asIs ∧ s.init = true ∧ s.life = .disabled ∧
    AllLoaded s.slots ∧ s.next + slotIndex .heap < 8 ∧
    (∀ m, slotIndex m < slotIndex .heap →
      Encodes (slotAt (applyPolicy .asIs s.slots) m).sec (pinsOf .asIs badHeap m)) ∧
    aligned (slotAt s.slots .heap).sec.addr (slotAt s.slots .heap).sec.gr = true ∧
    RefusedCode (slotAt (applyPolicy .asIs s.slots) .heap).sec 2 0 := by
  refine ⟨{ committing 4 [] [] with slots := badHeap }, by decide, rfl, rfl, ?_, by decide, ?_, by decide,
    .inl (by decide)⟩
  · intro n; cases n <;> rfl
  · intro m hm
    cases m
    · exact ⟨by decide, rfl⟩
    · exact ⟨by decide, rfl⟩
    · exact ⟨by decide, rfl⟩
    · exact absurd hm (by decide)
    · exact absurd hm (by decide)

/-- An illegal attribute in the last slot, which AS_IS leaves in place. -/
theorem test_witness_bad_attribute : ∃ s : State, policyOf 0 = some .asIs ∧ s.init = true ∧ s.life = .disabled ∧
    AllLoaded s.slots ∧ s.next + slotIndex .device < 8 ∧
    (∀ m, slotIndex m < slotIndex .device →
      Encodes (slotAt (applyPolicy .asIs s.slots) m).sec (pinsOf .asIs badDevice m)) ∧
    aligned (slotAt s.slots .device).sec.addr (slotAt s.slots .device).sec.gr = true ∧
    RefusedCode (slotAt (applyPolicy .asIs s.slots) .device).sec 7 1 := by
  refine ⟨{ committing 3 [] [] with slots := badDevice }, by decide, rfl, rfl, ?_, by decide, ?_, by decide,
    .inr (by decide)⟩
  · intro n; cases n <;> rfl
  · intro m hm
    cases m
    · exact ⟨by decide, rfl⟩
    · exact ⟨by decide, rfl⟩
    · exact ⟨by decide, rfl⟩
    · exact ⟨by decide, rfl⟩
    · exact absurd hm (by decide)

/-- V6: COMMIT halts on an illegal ATTR with (4, 7, 1), the slots before it pinned. -/
theorem test_commit_bad_attribute :
    (after (exec (.commit 0) { beforeCommit with slots := badDevice })).err = ⟨4, 0x70000000, 7, 1⟩ ∧
    (after (exec (.commit 0) { beforeCommit with slots := badDevice })).next = 4 := by decide

/-- `next` 4 and 8 (with `committing_ready`). -/
theorem test_witness_exhausted : 3 < (committing 4 [] []).next ∧ (committing 4 [] []).next ≤ 8 ∧
    3 < (committing 8 [] []).next ∧ (committing 8 [] []).next ≤ 8 ∧ policyOf 2 = some .uncached := by decide

theorem test_witness_disable : afterP1.life = .mapped ∧ mmuReport afterP1 = false ∧
    mmuReport { afterP1 with mmuReports := [true] } = true ∧ State.reset.life = .disabled := by decide

theorem afterP1_slots : afterP1.slots = p1Slots := by decide

theorem afterP1_encodes (pol : Policy) : LayoutEncodes pol afterP1.slots (pinsOf pol p1Slots) := by
  rw [afterP1_slots]; exact layoutEncodes_p1 pol

/-- REMAP from Mapped under UNCACHED, and its guards. -/
theorem test_witness_remap : policyOf 2 = some .uncached ∧ afterP1.init = true ∧ afterP1.life = .mapped ∧
    LayoutEncodes .uncached { afterP1 with cacheReports := [(false, false)] }.slots (pinsOf .uncached p1Slots) ∧
    mmuReport { afterP1 with cacheReports := [(false, false)] } = false ∧
    mmuReport (takeMmuReport { afterP1 with cacheReports := [(false, false)] }) = true ∧
    CachesAgree .uncached (takeMmuReport (takeMmuReport { afterP1 with cacheReports := [(false, false)] })) :=
  ⟨by decide, by decide, by decide, afterP1_encodes _, by decide, by decide, (by intro t h; cases h; decide)⟩

/-- REMAP's commit half: from Disabled, and from Mapped with the MMU reported off. -/
theorem test_witness_remap_as_commit : (0 : BitVec 2) ≠ 3 ∧ beforeCommit.init = true ∧
    beforeCommit.life = .disabled ∧ (2 : BitVec 2) ≠ 3 ∧ afterP1.init = true ∧ afterP1.life = .mapped ∧
    mmuReport afterP1 = false := by decide

/-- R87: a REMAP from Disabled halts as a COMMIT does, with its own word in the record. -/
theorem test_remap_commit_half : (after (exec (.remap 0) { beforeCommit with mmuReports := [false] })).err =
    ⟨6, 0x90000000, 3, 0⟩ := by decide

/-- P1 ends in a state with the invariant. -/
theorem blockInv_afterP1 : BlockInv afterP1 where
  next_le := by decide
  pinsUsed_le := by decide
  slots_sound := by rw [afterP1_slots]; intro n; cases n <;> intro _ <;> decide
  pins_written := by
    intro _ i
    refine ⟨Pin.zero, ?_⟩
    revert i
    decide
  off_before_init := by decide
  committed_iff := by decide
  mapped_sound := fun _ _ => ⟨by decide, by decide, by rw [afterP1_slots]; exact allLoaded_p1, by decide⟩
  mapped_mask := by decide
  no_record := by decide
  halted_record := by decide

theorem test_witness_round_trip : BlockInv afterP1 ∧ afterP1.halted = false ∧ afterP1.life = .mapped ∧
    LayoutEncodes .asIs afterP1.slots (pinsOf .asIs p1Slots) ∧ mmuReport afterP1 = false ∧
    mmuReport (takeMmuReport afterP1) = true :=
  ⟨blockInv_afterP1, by decide, by decide, afterP1_encodes _, by decide, by decide⟩

/-- A DISABLE that unmaps and a COMMIT that maps: for the statements about every command. -/
theorem test_witness_commands : exec .disable afterP1 = .next (after (exec .disable afterP1)) ∧
    afterP1.life = .mapped ∧ (after (exec .disable afterP1)).life = .disabled ∧
    (∃ t, exec (.commit 0) beforeCommit = .next t ∧ t.life = .mapped) ∧ beforeCommit.life = .disabled :=
  ⟨rfl, by decide, by decide, ⟨_, rfl, by decide⟩, by decide⟩

/-- A PIN that succeeds with entries below it. -/
theorem test_witness_pins_written_once : ∃ t, exec (.pin 0 1 0 2) { beforeCommit with next := 3 } = .next t ∧
    2 < ({ beforeCommit with next := 3 } : State).next ∧ t.next = 4 :=
  ⟨_, rfl, by decide, rfl⟩

/-- A REMAP from Mapped, with entries 5 to 7 to look at. -/
theorem test_witness_stale_entries : afterP1.life = .mapped ∧ ∃ t, exec (.remap 0) afterP1 = .next t ∧
    t.life = .mapped :=
  ⟨by decide, _, rfl, by decide⟩

/-- A step from a state with the invariant, by a command that is neither DACSET nor the reset event, and ends
Mapped. -/
theorem test_witness_steps : ∃ s t, BlockInv s ∧ s.dacr = s.layout.domAccum ∧ ¬ ResetNext s ∧
    (∀ rest, s.host ≠ .write 4 0x000 (encodeWord .dacset) :: rest) ∧ step s = .next t ∧ t.halted = false ∧
    t.life = .mapped := by
  refine ⟨{ afterP1 with host := [.write 4 0 0x50000000] }, _, { blockInv_afterP1 with }, by decide, ?_, ?_, rfl,
    by decide, by decide⟩
  · rintro ⟨rest, h⟩; cases h
  · intro rest h; injection h with h _; revert h; decide

theorem test_witness_bracketed : Bracketed afterP1.events ∧ pendingWrites afterP1.events = [] := by
  unfold Bracketed; decide

/-- The last byte of P1's device section. -/
theorem test_witness_translation : aligned 0x20000000 1 = true ∧
    (0x20000000 : Word).toNat ≤ (0x20FFFFFF : Word).toNat ∧
    (0x20FFFFFF : Word).toNat < (0x20000000 : Word).toNat + (granule 1).toNat := by decide

/-- P1 with another DACR, and with a user pin for the heap. -/
def domains (dacr lpa : Word) : State :=
  { afterP1 with dacr := dacr, hw := afterP1.hw.set 3 ⟨0x00100001, lpa, 0x208⟩ }

/-- One entry matches an address of the heap; its domain is 4. -/
theorem test_witness_domain_modes : (domains 0 0x001000C3).mmuEn = true ∧
    matchingEntries (domains 0 0x001000C3) 0x00180000 = [⟨0x00100001, 0x001000C3, 0x208⟩] ∧
    matchingEntries (domains 0x100 0x001000C7) 0x00180000 = [⟨0x00100001, 0x001000C7, 0x208⟩] ∧
    entryDomain ⟨0x00100001, 0x001000C3, 0x208⟩ = 4 ∧ domainMode (domains 0 0x001000C3).dacr 4 = 0b00 ∧
    domainMode (domains 0x300 0x001000C3).dacr 4 = 0b11 ∧ domainMode (domains 0x100 0x001000C7).dacr 4 = 0b01 ∧
    (0x001000C3 : Word).extractLsb' 1 3 = 0b001 ∧ (0x001000C7 : Word).extractLsb' 1 3 = 0b011 := by decide

theorem test_witness_statements : (asmCommand (.dacset 0x45)).wellFormed = true ∧
    (hosted (asmMoves (.dacset 0x45))).halted = false ∧
    (hosted (asmMoves (.dacset 0x45))).host = asmMoves (.dacset 0x45) ++ [] ∧
    asmOperand (.dacset 0x45) = some 0x45 ∧ (hosted (asmMoves .init)).host = asmMoves .init ++ [] ∧
    (asmCommand .init).wellFormed = true ∧ asmOperand .init = none := by decide

end Sys2Proof.Tests
end

/-! # The block state: what the registers show, and which accesses change it (10_state.md) -/

namespace Sys2Proof.Machine

/-! ## The state right after reset -/

/-- R37: every slot of the reset state is empty, its five fields 0. -/
theorem slotAt_reset (n : SlotName) : slotAt State.reset.slots n = ⟨false, ⟨0, 0, 0, 0, 0⟩⟩ := by
  cases n <;> rfl

theorem statusWord_reset : statusWord State.reset = 0 := by decide

/-! ## The registers at a word offset (R12, R28) -/

/-- From 0x040 on, the window holds the pin file, the slot file and reserved offsets only (R12). -/
theorem readRegister_of_le (s : State) {n : Nat} (h : 0x040 ≤ n) : readRegister s n =
    if n < 0x0C0 then readPinFile s (n - 0x040)
    else if 0x100 ≤ n ∧ n < 0x128 then readSlotFile s (n - 0x100) else 0 := by
  unfold readRegister
  split
  case h_16 => simp only [h, true_and]
  all_goals omega

/-- The fourth word of a lockdown entry's registers is reserved (R12). -/
theorem readPinFile_reserved (s : State) {n : Nat} (h : n % 0x10 = 0x0C) : readPinFile s n = 0 := by
  unfold readPinFile
  rw [h]
  split <;> rfl

theorem readRegister_reserved (s : State) {n : Nat} (h : Claims.ReservedOffset n) : readRegister s n = 0 := by
  obtain ⟨-, -, ⟨hlo, hhi, hword⟩ | ⟨hlo, hhi⟩ | hlo⟩ := h
  · rw [readRegister_of_le s hlo, if_pos hhi]
    exact readPinFile_reserved s (by omega)
  all_goals rw [readRegister_of_le s (by omega), if_neg (by omega), if_neg (by omega)]

theorem readRegister_slotCfg (s : State) (n : SlotName) :
    readRegister s (0x104 + 8 * slotIndex n) = slotCfg (slotAt s.slots n).sec := by
  cases n <;> rfl

/-- `SLOT<s>_CFG` is a format-D word without opcode and slot number, so its fields are at the places of R55. -/
theorem slotCfg_eq_wordD (d : Descriptor) : slotCfg d = wordD 0 0 d.gr d.dom d.perm d.attr := rfl

theorem high_wordD_zero (gr : BitVec 1) (dom : BitVec 8) (perm : BitVec 2) (attr : BitVec 3) :
    (wordD 0 0 gr dom perm attr).extractLsb' 25 7 = 0 := by
  ext i hi
  simp only [BitVec.getElem_extractLsb', getLsbD_wordD]
  grind

/-! ## STATUS (R17) -/

theorem getLsbD_slotValidBits (f : Slots) (n : SlotName) :
    (slotValidBits f).getLsbD (slotIndex n) = (slotAt f n).valid := by
  show BitVec.getLsbD (w := 1 + 1 + 1 + 1 + 1) (BitVec.ofBool f.device.valid ++ BitVec.ofBool f.heap.valid
    ++ BitVec.ofBool f.istack.valid ++ BitVec.ofBool f.stack.valid ++ BitVec.ofBool f.code.valid) _ = _
  simp only [BitVec.getLsbD_append, BitVec.getLsbD_ofBool]
  cases n <;> simp [slotIndex, slotAt]

/-- Bit `k` of STATUS, field by field from bit 0 (R17). -/
theorem getLsbD_statusWord (s : State) (k : Nat) : (statusWord s).getLsbD k =
    if k < 1 then s.init else if k < 2 then decide (s.life = .mapped) else if k < 3 then s.halted
    else if k < 7 then (BitVec.ofNat 4 s.next).getLsbD (k - 3)
    else if k < 12 then (slotValidBits s.slots).getLsbD (k - 7)
    else if k < 13 then s.mmuEn else if k < 14 then s.icEn else if k < 15 then s.dcEn else false := by
  show BitVec.getLsbD (w := 17 + 1 + 1 + 1 + 5 + 4 + 1 + 1 + 1) ((0 : BitVec 17) ++ BitVec.ofBool s.dcEn
    ++ BitVec.ofBool s.icEn ++ BitVec.ofBool s.mmuEn ++ slotValidBits s.slots ++ BitVec.ofNat 4 s.next
    ++ BitVec.ofBool s.halted ++ BitVec.ofBool (decide (s.life = .mapped)) ++ BitVec.ofBool s.init) k = _
  simp only [BitVec.getLsbD_append, BitVec.getLsbD_ofBool, Nat.sub_sub]
  grind (splits := 20)

/-- `STATUS[7+s]` is the valid bit of slot s (R17, R28). -/
theorem getLsbD_statusWord_slotValid (s : State) (n : SlotName) :
    (statusWord s).getLsbD (7 + slotIndex n) = (slotAt s.slots n).valid := by
  have hn : slotIndex n < 5 := by cases n <;> decide
  rw [getLsbD_statusWord, ← getLsbD_slotValidBits]
  grind

theorem statusWord_next (s : State) : (statusWord s).extractLsb' 3 4 = BitVec.ofNat 4 s.next := by
  ext i hi
  simp only [BitVec.getElem_extractLsb', getLsbD_statusWord]
  grind

theorem statusWord_high (s : State) : (statusWord s).extractLsb' 15 17 = 0 := by
  ext i hi
  simp only [BitVec.getElem_extractLsb', getLsbD_statusWord]
  grind

/-! ## Host writes that run no command (R13, R14) -/

theorem step_write_opa {s : State} {v : Word} {rest : List HostMove} (hh : s.host = .write 4 0x004 v :: rest) :
    step s = .next { s with host := rest, opa := v } :=
  step_write hh (by decide) (by decide)

/-- A host write to any other register or reserved offset is ignored (R13). -/
theorem step_write_ignored {s : State} {n : Nat} {v : Word} {rest : List HostMove}
    (hh : s.host = .write 4 n v :: rest) (h : n < 0x200) (ha : n % 4 = 0) (hcmd : n ≠ 0x000) (hopa : n ≠ 0x004) :
    step s = .next { s with host := rest } := by
  rw [step_write hh h ha, hostWrite, if_neg hcmd, if_neg hopa]

/-- A step that neither writes CMD nor resets the block changes at most OPA, the value the host
read last, and the moves to come. -/
theorem step_without_command {s t : State} (hcmd : ∀ w rest, s.host ≠ .write 4 0x000 w :: rest)
    (hreset : ¬ Safety.ResetNext s) (h : step s = .next t) :
    t = { s with opa := t.opa, host := t.host, readData := t.readData } := by
  rcases step_next h with ⟨-, rfl⟩ | ⟨rest, hh, -⟩ | ⟨n, rest, -, rfl⟩ | ⟨n, v, rest, hh, hw⟩
  · rfl
  · exact absurd ⟨rest, hh⟩ hreset
  · rfl
  · rcases hostWrite_next hw with ⟨rfl, -⟩ | ⟨rfl, -⟩ | ⟨-, rfl⟩ | rfl
    · exact absurd hh (hcmd v rest)
    · exact absurd hh (hcmd v rest)
    · rfl
    · rfl

/-! ## Commands that do not read OPA (R14) -/

/-- The state with OPA set (R14). -/
def State.setOpa (v : Word) (s : State) : State := { s with opa := v }

/-- A command under way, with OPA set in the state it has reached. -/
def Progress.setOpa (v : Word) : Progress → Progress
  | .running s => .running (s.setOpa v)
  | .raised s => .raised (s.setOpa v)

/-- The step `f` of a command neither reads nor writes OPA: it commutes with setting it. -/
def IgnoresOpa (f : State → Progress) : Prop := ∀ v s, f (s.setOpa v) = (f s).setOpa v

theorem finish_setOpa (v : Word) (p : Progress) : finish (p.setOpa v) = .next (p.state.setOpa v) := by
  cases p <;> rfl

@[simp] theorem emit_setOpa (e : Event) (v : Word) (s : State) : emit e (s.setOpa v) = (emit e s).setOpa v := by
  cases e <;> rfl

@[simp] theorem hwWrite_setOpa (e : Event) (v : Word) (s : State) :
    hwWrite e (s.setOpa v) = (hwWrite e s).setOpa v := by
  simp only [hwWrite, emit_setOpa]

@[simp] theorem takeMmuReport_setOpa (v : Word) (s : State) :
    takeMmuReport (s.setOpa v) = (takeMmuReport s).setOpa v := by
  cases h : s.mmuReports <;> simp [takeMmuReport, State.setOpa, h]

@[simp] theorem takeCacheReport_setOpa (v : Word) (s : State) :
    takeCacheReport (s.setOpa v) = (takeCacheReport s).setOpa v := by
  cases h : s.cacheReports <;> simp [takeCacheReport, State.setOpa, h]

theorem andThen_setOpa (p : Progress) (v : Word) {f : State → Progress} (hf : IgnoresOpa f) :
    andThen (p.setOpa v) f = (andThen p f).setOpa v := by
  cases p with
  | running s => exact hf v s
  | raised s => rfl

/-- A sequence ignores OPA when both parts do. -/
theorem IgnoresOpa.andThen {f g : State → Progress} (hf : IgnoresOpa f) (hg : IgnoresOpa g) :
    IgnoresOpa fun s => Machine.andThen (f s) g := fun v s =>
  (congrArg (Machine.andThen · g) (hf v s)).trans (andThen_setOpa (f s) v hg)

/-- A guard that does not look at OPA, before two branches that ignore it. -/
theorem IgnoresOpa.ite {c : State → Prop} [DecidablePred c] {f g : State → Progress}
    (hc : ∀ v s, c (s.setOpa v) ↔ c s) (hf : IgnoresOpa f) (hg : IgnoresOpa g) :
    IgnoresOpa fun s => if c s then f s else g s := fun v s => by
  simp only [hc]
  split
  · exact hf v s
  · exact hg v s

theorem ignoresOpa_stopWith (e : BlockError) (w : Word) : IgnoresOpa (stopWith e w) := fun _ _ => rfl

theorem ignoresOpa_running : IgnoresOpa .running := fun _ _ => rfl

/-- Updates that leave OPA alone, before a step that ignores it. -/
theorem IgnoresOpa.after {f : State → Progress} {g : State → State} (hf : IgnoresOpa f)
    (hg : ∀ v s, g (s.setOpa v) = (g s).setOpa v) : IgnoresOpa fun s => f (g s) := fun v s =>
  (congrArg f (hg v s)).trans (hf v (g s))

theorem ignoresOpa_checkSlots (w : Word) : IgnoresOpa (checkSlots w) := fun v s => by
  rcases checkSlots_cases w s with ⟨n, hn, -, hr⟩ | ⟨hall, hr⟩ <;> rw [hr]
  · have hn' : firstUnloaded (s.setOpa v).slots slotOrder = some n := hn
    simp only [checkSlots, hn']
    rfl
  · exact checkSlots_loaded w hall

theorem ignoresOpa_pinCommit (P : Params) (w : Word) (d : Descriptor) : IgnoresOpa (pinCommit P w d) :=
  fun v s => by
  unfold pinCommit
  split
  · by_cases h : s.next < 8
    · have h' : (s.setOpa v).next < 8 := h
      simp only [h, h', dif_pos]
      cases encodeChecked P d with
      | error e => rfl
      | ok p => rfl
    · have h' : ¬ (s.setOpa v).next < 8 := h
      simp only [h, h', dif_neg, not_false_iff]
      rfl
  · rfl

theorem ignoresOpa_pinSlots (P : Params) (w : Word) (ns : List SlotName) : IgnoresOpa (pinSlots P w ns) := by
  induction ns with
  | nil => exact ignoresOpa_running
  | cons n ns ih =>
    intro v s
    show andThen (pinCommit P w (slotAt s.slots n).sec (s.setOpa v)) _ = _
    rw [ignoresOpa_pinCommit]
    exact andThen_setOpa _ v fun v t => ih v (countPin t)

theorem ignoresOpa_checkMmuOn (w : Word) : IgnoresOpa (checkMmuOn w) :=
  .ite (c := fun s => mmuReport s = true) (fun _ _ => Iff.rfl) (ignoresOpa_running.after takeMmuReport_setOpa)
    ((ignoresOpa_stopWith _ w).after takeMmuReport_setOpa)

theorem ignoresOpa_driveCaches (w : Word) (pol : Policy) : IgnoresOpa (driveCaches w pol) := fun v s => by
  unfold driveCaches
  cases cacheTarget pol with
  | none => rfl
  | some target =>
    simp only [hwWrite_setOpa, takeCacheReport_setOpa]
    show (if cacheReport (hwWrite (.cacheEnable target.1 target.2) s) = _ then _ else _) = _
    split <;> rfl

theorem ignoresOpa_commitBody (P : Params) (w : Word) (pol : Policy) : IgnoresOpa (commitBody P w pol) :=
  .ite (c := fun s => s.life = .mapped) (fun _ _ => Iff.rfl) (ignoresOpa_stopWith _ w) <|
    (ignoresOpa_checkSlots w).andThen <|
    ((ignoresOpa_pinSlots P w slotOrder).after fun _ _ => rfl).andThen <|
    ((ignoresOpa_checkMmuOn w).after fun _ _ => rfl).andThen <|
    (ignoresOpa_driveCaches w pol).andThen <|
    ignoresOpa_running.after fun _ _ => rfl

theorem ignoresOpa_commitWith (P : Params) (w : Word) (pol : Policy) : IgnoresOpa (commitWith P w pol) :=
  .ite (c := fun s => s.init = true) (fun _ _ => Iff.rfl) (ignoresOpa_commitBody P w pol)
    (ignoresOpa_stopWith _ w)

theorem ignoresOpa_disableBody (w : Word) : IgnoresOpa (disableBody w) :=
  .ite (c := fun s => mmuReport (driveMmuOff s) = true) (fun _ _ => Iff.rfl)
    (((ignoresOpa_stopWith _ w).after takeMmuReport_setOpa).after (g := driveMmuOff) fun _ _ => rfl)
    (((ignoresOpa_running.after fun _ _ => rfl).after takeMmuReport_setOpa).after (g := driveMmuOff) fun _ _ => rfl)

theorem ignoresOpa_remapWith (P : Params) (w : Word) (pol : Policy) : IgnoresOpa (remapWith P w pol) :=
  .ite (c := fun s => s.init = true) (fun _ _ => Iff.rfl)
    ((IgnoresOpa.ite (c := fun s => s.life = .mapped) (fun _ _ => Iff.rfl) (ignoresOpa_disableBody w)
      ignoresOpa_running).andThen (ignoresOpa_commitBody P w pol))
    (ignoresOpa_stopWith _ w)

/-- A command that does the same thing whatever OPA holds (R14). -/
def RunsWithoutOpa (i : Instr) : Prop := ∃ f, IgnoresOpa f ∧ ∀ s, exec i s = finish (f s)

theorem runsWithoutOpa_init : RunsWithoutOpa .init :=
  ⟨_, .ite (c := fun s => s.init = true) (fun _ _ => Iff.rfl) (ignoresOpa_stopWith _ _)
    (ignoresOpa_running.after (g := initBlock) fun _ _ => rfl), fun _ => rfl⟩

theorem runsWithoutOpa_daccalc : RunsWithoutOpa .daccalc :=
  ⟨_, (ignoresOpa_checkSlots _).andThen (ignoresOpa_running.after fun _ _ => rfl), fun _ => rfl⟩

theorem runsWithoutOpa_disable : RunsWithoutOpa .disable :=
  ⟨_, .ite (c := fun s => s.life = .mapped) (fun _ _ => Iff.rfl) (ignoresOpa_disableBody _)
    (ignoresOpa_stopWith _ _), fun _ => rfl⟩

theorem runsWithoutOpa_commit (pol : BitVec 2) : RunsWithoutOpa (.commit pol) := by
  cases h : policyOf pol with
  | none => exact ⟨_, ignoresOpa_stopWith _ _, fun s => by rw [exec, execCommit, h]⟩
  | some p => exact ⟨_, ignoresOpa_commitWith _ _ p, fun s => by rw [exec, execCommit, h]⟩

theorem runsWithoutOpa_remap (pol : BitVec 2) : RunsWithoutOpa (.remap pol) := by
  cases h : policyOf pol with
  | none => exact ⟨_, ignoresOpa_stopWith _ _, fun s => by rw [exec, execRemap, h]⟩
  | some p => exact ⟨_, ignoresOpa_remapWith _ _ p, fun s => by rw [exec, execRemap, h]⟩

/-! ## No command writes OPA (R14) -/

/-- What ignores OPA leaves it alone: setting it to its own value changes nothing before and nothing after. -/
theorem IgnoresOpa.state_opa {f : State → Progress} (hf : IgnoresOpa f) (s : State) : (f s).state.opa = s.opa := by
  have h : f s = (f s).setOpa s.opa := hf s.opa s
  rw [h]
  cases f s <;> rfl

theorem ignoresOpa_loadSlot (P : Params) (w : Word) (n : SlotName) (d : Descriptor) :
    IgnoresOpa (loadSlot P w n d) :=
  .ite (c := fun s => s.life = .mapped) (fun _ _ => Iff.rfl) (ignoresOpa_stopWith _ w) <|
    .ite (c := fun _ => (!aligned d.addr d.gr) = true) (fun _ _ => Iff.rfl) (ignoresOpa_stopWith _ w) <|
    .ite (c := fun _ => (!domOk P.ssDomainPolicy d.dom d.gr) = true) (fun _ _ => Iff.rfl)
      (ignoresOpa_stopWith _ w) <|
    ignoresOpa_running.after fun _ _ => rfl

theorem ignoresOpa_encodeOnly (P : Params) (w : Word) (d : Descriptor) : IgnoresOpa (encodeOnly P w d) :=
  fun v s => by
  unfold encodeOnly
  split
  · cases encodeChecked P d <;> rfl
  · rfl

theorem ignoresOpa_pinOnly (P : Params) (w : Word) (d : Descriptor) : IgnoresOpa (pinOnly P w d) :=
  .ite (c := fun s => s.init = true) (fun _ _ => Iff.rfl) ((ignoresOpa_pinCommit P w d).after fun _ _ => rfl)
    (ignoresOpa_stopWith _ w)

/-- Every command comes down to a body that ignores OPA, once the operand it takes from OPA is given to it. -/
theorem exec_eq_finish_ignoresOpa (i : Instr) (s : State) : ∃ f, IgnoresOpa f ∧ exec i s = finish (f s) := by
  have of_runs : RunsWithoutOpa i → ∃ f, IgnoresOpa f ∧ exec i s = finish (f s) :=
    fun ⟨f, hf, h⟩ => ⟨f, hf, h s⟩
  cases i with
  | init => exact of_runs runsWithoutOpa_init
  | setsec slot gr dom perm attr =>
    cases h : slotOf slot with
    | none => exact ⟨_, ignoresOpa_stopWith _ _, by rw [exec, execSetsec, h]⟩
    | some n =>
      exact ⟨_, ignoresOpa_loadSlot _ _ n (operandDescriptor gr dom perm attr s), by rw [exec, execSetsec, h]⟩
  | encode gr dom perm attr => exact ⟨_, ignoresOpa_encodeOnly _ _ (operandDescriptor gr dom perm attr s), rfl⟩
  | pin gr dom perm attr => exact ⟨_, ignoresOpa_pinOnly _ _ (operandDescriptor gr dom perm attr s), rfl⟩
  | daccalc => exact of_runs runsWithoutOpa_daccalc
  | dacset =>
    exact ⟨_, .ite (c := fun t => t.init = true) (fun _ _ => Iff.rfl)
      (ignoresOpa_running.after (g := fun t => hwWrite (.dacrWrite s.opa) (emit .barrier t)) fun _ _ => rfl)
      (ignoresOpa_stopWith _ _), rfl⟩
  | commit pol => exact of_runs (runsWithoutOpa_commit pol)
  | disable => exact of_runs runsWithoutOpa_disable
  | remap pol => exact of_runs (runsWithoutOpa_remap pol)

theorem exec_opa {i : Instr} {s t : State} (h : exec i s = .next t) : t.opa = s.opa := by
  obtain ⟨f, hf, hr⟩ := exec_eq_finish_ignoresOpa i s
  rw [hr, finish_eq] at h
  injection h with h
  exact h ▸ hf.state_opa s

theorem RunsWithoutOpa.exec_setOpa {i : Instr} (hi : RunsWithoutOpa i) {s t : State} (v : Word)
    (h : exec i s = .next t) : exec i (s.setOpa v) = .next (t.setOpa v) := by
  obtain ⟨f, hf, hr⟩ := hi
  rw [hr, finish_eq] at h
  injection h with h
  rw [hr, hf, finish_setOpa, h]

end Sys2Proof.Machine

namespace Sys2Proof.Proofs

open Sys2Proof.Machine

/-- Settles O17: R37's table, row by row. -/
theorem resetValues : Obligations.ResetValues :=
  ⟨rfl, rfl, rfl, rfl, rfl, slotAt_reset, rfl, rfl, rfl, rfl, rfl, rfl, rfl, rfl, statusWord_reset⟩

/-- Settles O9: a write to an offset that names neither CMD nor OPA is ignored, a read gives its value to the host
and nothing else, and each reserved range of R12 reads 0. -/
theorem otherAccessesChangeNothing : Obligations.OtherAccessesChangeNothing :=
  ⟨fun _ _ _ _ hh h ha hcmd hopa => step_write_ignored hh h ha hcmd hopa,
    fun _ _ _ hh h ha => step_read hh h ha,
    fun s _ h => readRegister_reserved s h⟩

/-- Settles O12: the register is a format-D word (R55), whose fields read back the slot. -/
theorem slotCfgFields : Obligations.SlotCfgFields := by
  intro s n
  simp only [readRegister_slotCfg, slotCfg_eq_wordD]
  exact ⟨grField_wordD .., domField_wordD .., permField_wordD .., attrField_wordD .., low_wordD ..,
    high_wordD_zero .., getLsbD_statusWord_slotValid s n⟩

/-- Settles O11: STATUS bit by bit, and a step that runs no command and is no reset changes none of its fields. -/
theorem statusFields : Obligations.StatusFields := by
  intro s
  refine ⟨?_, ?_, ?_, statusWord_next s, getLsbD_statusWord_slotValid s, ?_, ?_, ?_, statusWord_high s, rfl,
    ?_, ?_⟩
  case refine_7 => exact fun v rest hh => step_write_ignored hh (by decide) (by decide) (by decide) (by decide)
  case refine_8 => exact fun t hcmd hreset h => (congrArg statusWord (step_without_command hcmd hreset h)).trans rfl
  all_goals exact getLsbD_statusWord s _

/-- Settles O8: OPA takes what the host writes; every command's body commutes with setting OPA once it has its
operand, so no command writes OPA; and five commands take no operand from it. -/
theorem opaIsPlainStorage : Obligations.OpaIsPlainStorage := by
  refine ⟨fun s v rest hh => step_write_opa hh, fun i s t h => exec_opa h, fun i s t v hi h => ?_⟩
  have hruns : RunsWithoutOpa i := by
    rcases hi with rfl | rfl | rfl | ⟨pol, rfl⟩ | ⟨pol, rfl⟩
    · exact runsWithoutOpa_init
    · exact runsWithoutOpa_daccalc
    · exact runsWithoutOpa_disable
    · exact runsWithoutOpa_commit pol
    · exact runsWithoutOpa_remap pol
  exact hruns.exec_setOpa v h

end Sys2Proof.Proofs

/-! # Memory and the register window: accesses the block does not admit (20_memory.md) -/

namespace Sys2Proof.Machine

/-- Only 32-bit accesses at multiples of 4 are admitted (R41). -/
theorem admitted_eq_false {b n : Nat} (h : b ≠ 4 ∨ n % 4 ≠ 0) : admitted b n = false := by
  rcases h with hb | hn
  · rw [admitted, decide_eq_false hb, Bool.false_and]
  · rw [admitted, decide_eq_false hn, Bool.and_false]

/-- The port refuses an unadmitted access before it looks at the window or at what the access would do (R41). -/
theorem portAccess_unadmitted {b n : Nat} (act : Host.Outcome State Fault Refusal) (h : b ≠ 4 ∨ n % 4 ≠ 0) :
    portAccess b n act = .refused (.unadmittedAccess b n) := by
  rw [portAccess, admitted_eq_false h]
  rfl

/-- A step with a move pending makes that move (R104). -/
theorem step_of_host_cons {s : State} {m : HostMove} {rest : List HostMove} (hh : s.host = m :: rest) :
    step s = hostMove m { s with host := rest } := by
  rw [step, moveOnce, hh]

end Sys2Proof.Machine

namespace Sys2Proof.Proofs

open Sys2Proof.Machine

/-- Settles O15: reads and writes pass the same port, which refuses an unadmitted access whatever it would do. -/
theorem unadmittedAccessRefused : Obligations.UnadmittedAccessRefused :=
  ⟨fun _ _ _ _ _ hh h => (step_of_host_cons hh).trans (portAccess_unadmitted _ h),
    fun _ _ _ _ hh h => (step_of_host_cons hh).trans (portAccess_unadmitted _ h)⟩

end Sys2Proof.Proofs

/-! # Command words: the decoder and the encoder against each other (30_encoding.md) -/

namespace Sys2Proof

/-! ## A word is its fields put together (R53 to R56) -/

theorem getLsbD_of_low_eq_zero {w : Word} {n k : Nat} (h : w.extractLsb' 0 n = 0) (hk : k < n) :
    w.getLsbD k = false := by
  simpa [hk] using congrArg (·.getLsbD k) h

theorem wordN_opField {w : Word} (h : w.extractLsb' 0 28 = 0) : wordN (opField w) = w := by
  refine BitVec.eq_of_getLsbD_eq fun k hk => ?_
  have hlow := getLsbD_of_low_eq_zero (k := k) h
  simp only [getLsbD_wordN, opField, BitVec.getLsbD_extractLsb']
  grind

theorem wordP_fields {w : Word} (h : w.extractLsb' 0 26 = 0) : wordP (opField w) (polField w) = w := by
  refine BitVec.eq_of_getLsbD_eq fun k hk => ?_
  have hlow := getLsbD_of_low_eq_zero (k := k) h
  simp only [getLsbD_wordP, opField, polField, BitVec.getLsbD_extractLsb']
  grind

theorem wordD_fields {w : Word} (h : w.extractLsb' 0 11 = 0) :
    wordD (opField w) (slotField w) (grField w) (domField w) (permField w) (attrField w) = w := by
  refine BitVec.eq_of_getLsbD_eq fun k hk => ?_
  have hlow := getLsbD_of_low_eq_zero (k := k) h
  simp only [getLsbD_wordD, opField, slotField, grField, domField, permField, attrField,
    BitVec.getLsbD_extractLsb']
  grind

/-! ## The fields as numbers (R53, R55, R56) -/

theorem opField_toNat (w : Word) : (opField w).toNat = w.toNat / 2 ^ 28 := by
  have := w.isLt
  simp only [opField, BitVec.extractLsb'_toNat, Nat.shiftRight_eq_div_pow]
  omega

theorem slotField_toNat (w : Word) : (slotField w).toNat = w.toNat / 2 ^ 25 % 8 := by
  simp only [slotField, BitVec.extractLsb'_toNat, Nat.shiftRight_eq_div_pow]

theorem polField_toNat (w : Word) : (polField w).toNat = w.toNat / 2 ^ 26 % 4 := by
  simp only [polField, BitVec.extractLsb'_toNat, Nat.shiftRight_eq_div_pow]

/-- The low `n` bits are 0 exactly when the mask of those bits meets none that is set. -/
theorem extractLsb'_zero_eq_zero_iff (w : Word) {n : Nat} (hn : n ≤ 32) :
    w.extractLsb' 0 n = 0 ↔ w &&& BitVec.ofNat 32 (2 ^ n - 1) = 0 := by
  have hpow : 2 ^ n - 1 < 2 ^ 32 := by
    have := Nat.pow_le_pow_right (n := 2) (by decide) hn
    omega
  simp only [← BitVec.toNat_inj, BitVec.extractLsb'_toNat, BitVec.toNat_and, BitVec.toNat_ofNat,
    Nat.mod_eq_of_lt hpow, Nat.and_two_pow_sub_one_eq_mod]
  simp

/-! ## The four checks (R59) -/

/-- The first of R59's checks that a word fails, the checks read off the word as a number. -/
def firstFailure (w : Word) : Option DecodeError :=
  let op := w.toNat / 2 ^ 28
  let slot := w.toNat / 2 ^ 25 % 8
  let pol := w.toNat / 2 ^ 26 % 4
  if op = 0 ∨ 10 ≤ op then some .reservedOpcode
  else if w &&& Claims.mustBeZero op ≠ 0 then some .reservedBits
  else if (op = 2 ∧ 5 ≤ slot) ∨ ((op = 3 ∨ op = 4) ∧ slot ≠ 0) then some .badSlot
  else if (op = 7 ∨ op = 9) ∧ pol = 3 then some .reservedPolicy
  else none

/-- Format N has no check after the must-be-0 bits (R54). -/
theorem firstFailure_formatN {w : Word}
    (h : (opField w).toNat = 1 ∨ (opField w).toNat = 5 ∨ (opField w).toNat = 6 ∨ (opField w).toNat = 8) :
    firstFailure w = if w &&& 0x0FFFFFFF ≠ 0 then some .reservedBits else none := by
  unfold firstFailure
  rw [← opField_toNat]
  rcases h with h | h | h | h <;> simp [h, Claims.mustBeZero]

/-- Format D: the must-be-0 bits, then SLOT, at most 4 in SETSEC and 0 in ENCODE and PIN (R55). -/
theorem firstFailure_formatD {w : Word}
    (h : (opField w).toNat = 2 ∨ (opField w).toNat = 3 ∨ (opField w).toNat = 4) :
    firstFailure w = if w &&& 0x000007FF ≠ 0 then some .reservedBits
      else if (if (opField w).toNat = 2 then 5 ≤ (slotField w).toNat else slotField w ≠ 0) then some .badSlot
      else none := by
  have hslot : (slotField w).toNat = 0 ↔ slotField w = 0 := BitVec.toNat_inj (y := 0)
  unfold firstFailure
  rw [← opField_toNat, ← slotField_toNat]
  rcases h with h | h | h <;> simp [h, hslot, Claims.mustBeZero]

/-- Format P: the must-be-0 bits, then POL (R56). -/
theorem firstFailure_formatP {w : Word} (h : (opField w).toNat = 7 ∨ (opField w).toNat = 9) :
    firstFailure w = if w &&& 0x03FFFFFF ≠ 0 then some .reservedBits
      else if polField w = 3 then some .reservedPolicy else none := by
  have hpol : (polField w).toNat = 3 ↔ polField w = 3 := BitVec.toNat_inj (y := 3)
  unfold firstFailure
  rw [← opField_toNat, ← polField_toNat]
  rcases h with h | h <;> simp [h, hpol, Claims.mustBeZero]

theorem firstFailure_reservedOpcode {w : Word} (h : (opField w).toNat = 0 ∨ 10 ≤ (opField w).toNat) :
    firstFailure w = some .reservedOpcode := by
  rw [opField_toNat] at h
  exact if_pos h

/-- A decoding of `w` against the check `w` fails first: the rejection for that check, or, when there is none, a
well-formed command with word `w`. -/
def Agrees (w : Word) (f : Option DecodeError) (r : Except DecodeError Instr) : Prop :=
  (∃ e, f = some e ∧ r = .error e) ∨ (f = none ∧ ∃ i, r = .ok i ∧ i.wellFormed = true ∧ encodeWord i = w)

theorem agrees_error (w : Word) (e : DecodeError) : Agrees w (some e) (.error e) := .inl ⟨e, rfl, rfl⟩

theorem agrees_ok {w : Word} {i : Instr} (hi : i.wellFormed = true) (hw : encodeWord i = w) :
    Agrees w none (.ok i) :=
  .inr ⟨rfl, i, rfl, hi, hw⟩

/-- One check: failing it is the rejection on both sides, and passing it leaves the checks after it. -/
theorem agrees_check {w : Word} {e : DecodeError} {bad ok : Prop} [Decidable bad] [Decidable ok]
    {f : Option DecodeError} {r : Except DecodeError Instr} (hok : ok ↔ ¬ bad) (h : ok → Agrees w f r) :
    Agrees w (if bad then some e else f) (if ok then r else .error e) := by
  by_cases hb : bad
  · rw [if_pos hb, if_neg (fun ho => hok.mp ho hb)]
    exact agrees_error w e
  · rw [if_neg hb, if_pos (hok.mpr hb)]
    exact h (hok.mpr hb)

/-- Check 2, the must-be-0 bits, which are the low bits in every format (R54 to R56). -/
theorem agrees_lowBits {w : Word} {n : Nat} (hn : n ≤ 32) {f : Option DecodeError}
    {r : Except DecodeError Instr} (h : w.extractLsb' 0 n = 0 → Agrees w f r) :
    Agrees w (if w &&& BitVec.ofNat 32 (2 ^ n - 1) ≠ 0 then some .reservedBits else f)
      (if w.extractLsb' 0 n = 0 then r else .error .reservedBits) :=
  agrees_check ((extractLsb'_zero_eq_zero_iff w hn).trans not_not.symm) h

section Formats

variable {w : Word} {i : Instr}

theorem agrees_decodeN
    (hop : (opField w).toNat = 1 ∨ (opField w).toNat = 5 ∨ (opField w).toNat = 6 ∨ (opField w).toNat = 8)
    (hi : i.wellFormed = true) (hw : encodeWord i = wordN (opField w)) :
    Agrees w (firstFailure w) (decodeN w i) := by
  rw [firstFailure_formatN hop]
  exact agrees_lowBits (n := 28) (by decide) fun h => agrees_ok hi (hw.trans (wordN_opField h))

theorem agrees_decodeD {ok : Bool}
    (hop : (opField w).toNat = 2 ∨ (opField w).toNat = 3 ∨ (opField w).toNat = 4)
    (hok : ok = true ↔ if (opField w).toNat = 2 then (slotField w).toNat ≤ 4 else slotField w = 0)
    (hi : ok = true → i.wellFormed = true)
    (hw : ok = true → encodeWord i =
      wordD (opField w) (slotField w) (grField w) (domField w) (permField w) (attrField w)) :
    Agrees w (firstFailure w) (decodeD w ok i) := by
  rw [firstFailure_formatD hop]
  refine agrees_lowBits (n := 11) (by decide) fun h =>
    agrees_check ?_ fun ho => agrees_ok (hi ho) ((hw ho).trans (wordD_fields h))
  rw [hok]
  split
  · omega
  · exact not_not.symm

theorem agrees_decodeP (hop : (opField w).toNat = 7 ∨ (opField w).toNat = 9)
    (hi : polField w ≠ 3 → i.wellFormed = true) (hw : encodeWord i = wordP (opField w) (polField w)) :
    Agrees w (firstFailure w) (decodeP w i) := by
  rw [firstFailure_formatP hop, decodeP, ← ite_not (polField w = 3) _ (Except.error _)]
  exact agrees_lowBits (n := 26) (by decide) fun h =>
    agrees_check Iff.rfl fun hp => agrees_ok (hi hp) (hw.trans (wordP_fields h))

end Formats

theorem opField_eq {w : Word} {n : Nat} (h : (opField w).toNat = n) : opField w = BitVec.ofNat 4 n := by
  rw [← h, BitVec.ofNat_toNat, BitVec.setWidth_eq]

/-- Decoding is total and follows R59: the first failing check is the rejection, and a word that fails none is
the word of the well-formed command it decodes to. -/
theorem agrees_decode (w : Word) : Agrees w (firstFailure w) (decode w) := by
  unfold decode
  split
  case h_1 h | h_5 h | h_6 h | h_8 h => exact agrees_decodeN (by simp [h]) rfl (by rw [opField_eq h]; rfl)
  case h_2 h => exact agrees_decodeD (by simp [h]) (by simp [h]) id fun _ => by rw [opField_eq h]; rfl
  case h_3 h | h_4 h =>
    exact agrees_decodeD (by simp [h]) (by simp [h]) (fun _ => rfl) fun hs => by
      rw [opField_eq h, of_decide_eq_true hs]; rfl
  case h_7 h | h_9 h => exact agrees_decodeP (by simp [h]) decide_eq_true (by rw [opField_eq h]; rfl)
  case h_10 =>
    rw [firstFailure_reservedOpcode (by grind)]
    exact agrees_error w _

theorem decode_of_firstFailure {w : Word} {e : DecodeError} (h : firstFailure w = some e) :
    decode w = .error e := by
  obtain ⟨e', he, hd⟩ | ⟨hn, -⟩ := agrees_decode w
  · rwa [Option.some.inj (h.symm.trans he)]
  · cases h.symm.trans hn

theorem exists_decode_of_firstFailure_none {w : Word} (h : firstFailure w = none) :
    ∃ i, decode w = .ok i ∧ i.wellFormed = true ∧ encodeWord i = w := by
  obtain ⟨e, he, -⟩ | ⟨-, hi⟩ := agrees_decode w
  · cases h.symm.trans he
  · exact hi

end Sys2Proof

namespace Sys2Proof.Machine

/-! ## A command word at the host port (R15, R59) -/

section Cmd

variable {s : State} {w : Word} {rest : List HostMove}

theorem step_cmd_halted (hh : s.host = .write 4 0x000 w :: rest) (h : s.halted = true) :
    step s = .next { s with host := rest } := by
  rw [step_cmd hh, issueCommand, if_pos h]

theorem step_cmd_ok {i : Instr} (hh : s.host = .write 4 0x000 w :: rest) (h : s.halted ≠ true)
    (hd : decode w = .ok i) : step s = exec i { s with host := rest } := by
  rw [step_cmd hh, issueCommand, if_neg h, hd]

/-- An illegal word raises IllegalCommand with itself as the command and as the first operand (R59, R90). -/
theorem step_cmd_illegal {e : DecodeError} (hh : s.host = .write 4 0x000 w :: rest) (h : s.halted ≠ true)
    (hd : decode w = .error e) :
    step s = .next (Claims.halts 7 w w (decodeReason e) { s with host := rest }) := by
  rw [step_cmd hh, issueCommand, if_neg h, hd]
  rfl

end Cmd

end Sys2Proof.Machine

namespace Sys2Proof.Proofs

open Sys2Proof.Machine

/-- Settles O1: the fields of an assembled word read back, one law per command. -/
theorem decodeOfEncode : Obligations.DecodeOfEncode
  | .init => Laws.Encoding.init
  | .setsec slot gr dom perm attr => Laws.Encoding.setsec slot gr dom perm attr
  | .encode gr dom perm attr => Laws.Encoding.encode gr dom perm attr
  | .pin gr dom perm attr => Laws.Encoding.pin gr dom perm attr
  | .daccalc => Laws.Encoding.daccalc
  | .dacset => Laws.Encoding.dacset
  | .commit pol => Laws.Encoding.commit pol
  | .disable => Laws.Encoding.disable
  | .remap pol => Laws.Encoding.remap pol

/-- Settles O2: a word that decodes fails no check, so its must-be-0 bits are 0 and its fields are all of it. -/
theorem encodeOfDecode : Obligations.EncodeOfDecode := by
  intro w i hd
  obtain ⟨e, -, he⟩ | ⟨-, j, hj, hwf, hw⟩ := agrees_decode w
  · cases hd.symm.trans he
  · cases hd.symm.trans hj
    exact ⟨hwf, hw⟩

/-- Settles O4: each clause names the first check the word fails, and what the decoder answers follows from that. -/
theorem illegalWordsRaiseInOrder : Obligations.IllegalWordsRaiseInOrder := by
  intro s w rest hh op slot pol s'
  split_ifs with hhalt hop hbits hslot hpol
  · exact step_cmd_halted hh hhalt
  · exact step_cmd_illegal hh hhalt (decode_of_firstFailure (if_pos hop))
  · exact step_cmd_illegal hh hhalt (decode_of_firstFailure ((if_neg hop).trans (if_pos hbits)))
  · exact step_cmd_illegal hh hhalt
      (decode_of_firstFailure ((if_neg hop).trans ((if_neg hbits).trans (if_pos hslot))))
  · exact step_cmd_illegal hh hhalt (decode_of_firstFailure
      ((if_neg hop).trans ((if_neg hbits).trans ((if_neg hslot).trans (if_pos hpol)))))
  · have hnone : firstFailure w = none :=
      (if_neg hop).trans ((if_neg hbits).trans ((if_neg hslot).trans (if_neg hpol)))
    obtain ⟨i, hd, -, -⟩ := exists_decode_of_firstFailure_none hnone
    exact ⟨i, hd, step_cmd_ok hh hhalt hd⟩

/-- Settles O3: nine closed words, decoded. -/
theorem specWordsDecode : Obligations.SpecWordsDecode := by
  unfold Obligations.SpecWordsDecode
  decide

/-- Settles O60: each expansion is the definition's own list. -/
theorem pseudoExpansions : Obligations.PseudoExpansions :=
  fun _ _ _ _ _ _ _ _ _ => ⟨rfl, rfl, rfl⟩

end Sys2Proof.Proofs

/-! # SETSEC and ENCODE: the section descriptor, its checks and its encoding (40_section_pin.md) -/

namespace Sys2Proof.Machine

/-- A `raise` ends the command in R90's state with the error's own code and operands (R88, R90). -/
theorem finish_stopWith_eq_halts (e : BlockError) (w : Word) (s : State) :
    finish (stopWith e w s) =
      .next (Claims.halts (errorCode e) w (errorOperands w e).1 (errorOperands w e).2 s) := rfl

/-! ## Slot codes (R57) -/

theorem slotIndex_le (n : SlotName) : slotIndex n ≤ 4 := by
  cases n <;> decide

theorem toNat_of_slotOf {slot : BitVec 3} {n : SlotName} (h : slotOf slot = some n) :
    slot.toNat = slotIndex n := by
  unfold slotOf at h
  split at h <;> cases h <;> assumption

theorem setsec_wellFormed_of_slotOf {slot : BitVec 3} {n : SlotName} (h : slotOf slot = some n)
    (gr : BitVec 1) (dom : BitVec 8) (perm : BitVec 2) (attr : BitVec 3) :
    (Instr.setsec slot gr dom perm attr).wellFormed = true :=
  decide_eq_true ((toNat_of_slotOf h).trans_le (slotIndex_le n))

/-! ## SETSEC's body (R74) -/

section LoadSlot

variable {P : Params} {w : Word} {n : SlotName} {d : Descriptor} {s : State}

theorem loadSlot_mapped (hl : s.life = .mapped) :
    loadSlot P w n d s = stopWith (.preconditionViolation (.setsecWhileMapped n)) w s :=
  if_pos hl

theorem loadSlot_misaligned (hl : s.life = .disabled) (ha : aligned d.addr d.gr = false) :
    loadSlot P w n d s = stopWith (.alignmentViolation d.addr d.gr) w s := by
  simp [loadSlot, hl, ha]

theorem loadSlot_illegalDomain (hl : s.life = .disabled) (ha : aligned d.addr d.gr = true)
    (hd : domOk P.ssDomainPolicy d.dom d.gr = false) :
    loadSlot P w n d s = stopWith (.illegalDomain d.dom d.gr) w s := by
  simp [loadSlot, hl, ha, hd]

theorem loadSlot_ok (hl : s.life = .disabled) (ha : aligned d.addr d.gr = true)
    (hd : domOk P.ssDomainPolicy d.dom d.gr = true) :
    loadSlot P w n d s = .running { s with slots := slotPut s.slots n ⟨true, d⟩ } := by
  simp [loadSlot, hl, ha, hd]

end LoadSlot

/-- A SETSEC with a legal SLOT code is its body on the named slot, with the descriptor from OPA (R57, R74). -/
theorem exec_setsec {slot : BitVec 3} {n : SlotName} (h : slotOf slot = some n) (gr : BitVec 1)
    (dom : BitVec 8) (perm : BitVec 2) (attr : BitVec 3) (s : State) :
    exec (.setsec slot gr dom perm attr) s =
      finish (loadSlot Config.params (encodeWord (.setsec slot gr dom perm attr)) n
        ⟨s.opa, gr, dom, perm, attr⟩ s) := by
  show execSetsec slot gr dom perm attr s = _
  simp only [execSetsec, h, operandDescriptor]

/-! ## The encoder's checks, in order (R73, R75) -/

section EncodeChecked

variable {P : Params} {d : Descriptor}

theorem encodeChecked_invalidPermission (hp : permOf d.perm = none) :
    encodeChecked P d = .error (.invalidPermission d.perm) := by
  simp [encodeChecked, hp]

theorem encodeChecked_illegalDomain (hp : permOf d.perm ≠ none)
    (hd : domOk P.ssDomainPolicy d.dom d.gr = false) :
    encodeChecked P d = .error (.illegalDomain d.dom d.gr) := by
  obtain ⟨perm, hperm⟩ := Option.ne_none_iff_exists'.mp hp
  simp [encodeChecked, hperm, hd]

theorem encodeChecked_invalidAttribute (hp : permOf d.perm ≠ none)
    (hd : domOk P.ssDomainPolicy d.dom d.gr = true) (ht : attrOf d.attr = none) :
    encodeChecked P d = .error (.invalidAttribute d.attr) := by
  obtain ⟨perm, hperm⟩ := Option.ne_none_iff_exists'.mp hp
  simp [encodeChecked, hperm, hd, ht]

/-! ## ENCODE's body (R75) -/

variable {w : Word} {s : State}

theorem encodeOnly_misaligned (ha : aligned d.addr d.gr = false) :
    encodeOnly P w d s = stopWith (.alignmentViolation d.addr d.gr) w s := by
  simp [encodeOnly, ha]

theorem encodeOnly_error {e : BlockError} (ha : aligned d.addr d.gr = true)
    (he : encodeChecked P d = .error e) : encodeOnly P w d s = stopWith e w s := by
  simp [encodeOnly, ha, he]

theorem encodeOnly_ok {p : Pin} (ha : aligned d.addr d.gr = true) (hp : encodeChecked P d = .ok p) :
    encodeOnly P w d s = .running { s with enc := p } := by
  simp [encodeOnly, ha, hp]

end EncodeChecked

/-- ENCODE is its body on the descriptor from OPA (R57, R75). -/
theorem exec_encode (gr : BitVec 1) (dom : BitVec 8) (perm : BitVec 2) (attr : BitVec 3) (s : State) :
    exec (.encode gr dom perm attr) s =
      finish (encodeOnly Config.params (encodeWord (.encode gr dom perm attr))
        ⟨s.opa, gr, dom, perm, attr⟩ s) := rfl

end Sys2Proof.Machine

namespace Sys2Proof.Proofs

open Sys2Proof.Machine

/-- Settles O22: the word is the encoding of a well-formed command, and each clause is one outcome of SETSEC's
body. -/
theorem setsecLoadsSlot : Obligations.SetsecLoadsSlot := by
  intro s slot n gr dom perm attr hn i
  have hexec := exec_setsec hn gr dom perm attr s
  refine ⟨Laws.Encoding.setsec slot gr dom perm attr (setsec_wellFormed_of_slotOf hn gr dom perm attr),
    fun hl => hexec.trans ?_, fun hl ha => hexec.trans ?_, fun hl ha hd => hexec.trans ?_,
    fun hl ha hd => hexec.trans ?_⟩
  · rw [loadSlot_mapped hl]
    exact finish_stopWith_eq_halts ..
  · rw [loadSlot_misaligned hl ha]
    exact finish_stopWith_eq_halts ..
  · rw [loadSlot_illegalDomain hl ha hd]
    exact finish_stopWith_eq_halts ..
  · rw [loadSlot_ok hl ha hd, finish_running]

/-- Settles O23: each clause is one outcome of ENCODE's body, which looks at the operands alone, neither at `init`
nor at the lifecycle state. -/
theorem encodeWritesResult : Obligations.EncodeWritesResult := by
  intro s gr dom perm attr i
  have hexec := exec_encode gr dom perm attr s
  refine ⟨Laws.Encoding.encode gr dom perm attr rfl, fun ha => hexec.trans ?_, fun ha hp => hexec.trans ?_,
    fun ha hp hd => hexec.trans ?_, fun ha hp hd ht => hexec.trans ?_, fun p a ha hp hd ht => hexec.trans ?_⟩
  · rw [encodeOnly_misaligned ha]
    exact finish_stopWith_eq_halts ..
  · rw [encodeOnly_error ha (encodeChecked_invalidPermission hp)]
    exact finish_stopWith_eq_halts ..
  · rw [encodeOnly_error ha (encodeChecked_illegalDomain hp hd)]
    exact finish_stopWith_eq_halts ..
  · rw [encodeOnly_error ha (encodeChecked_invalidAttribute hp hd ht)]
    exact finish_stopWith_eq_halts ..
  · rw [encodeOnly_ok ha (encodeChecked_ok.mpr ⟨p, a, hp, ht, hd, rfl⟩), finish_running]

end Sys2Proof.Proofs

/-! # DACCALC and DACSET: the domain mask and the DACR (41_domain_access.md) -/

namespace Sys2Proof.Machine

/-! ## The lowest unloaded slot (R79, R85) -/

theorem slotOrder_split (n : SlotName) :
    slotOrder = slotOrder.take (slotIndex n) ++ n :: slotOrder.drop (slotIndex n + 1) := by
  cases n <;> rfl

theorem slotIndex_lt_of_mem_take {m n : SlotName} (h : m ∈ slotOrder.take (slotIndex n)) :
    slotIndex m < slotIndex n := by
  revert h
  cases n <;> cases m <;> decide

/-- The search in slot order stops at the lowest unloaded slot: every slot before it has a lower number. -/
theorem firstUnloaded_of_lowestUnloaded {f : Slots} {n : SlotName} (h : Claims.LowestUnloaded f n) :
    firstUnloaded f slotOrder = some n := by
  obtain ⟨hn, hlower⟩ := h
  refine List.find?_eq_some_iff_append.mpr ⟨by simp [hn], _, _, slotOrder_split n, fun m hm => ?_⟩
  simp [hlower m (slotIndex_lt_of_mem_take hm)]

theorem checkSlots_unloaded (w : Word) {s : State} {n : SlotName} (h : Claims.LowestUnloaded s.slots n) :
    checkSlots w s = stopWith (.preconditionViolation (.slotNotLoaded n)) w s := by
  rw [checkSlots, firstUnloaded_of_lowestUnloaded h]

/-! ## The outcomes of DACCALC (R79) -/

theorem exec_daccalc_loaded {s : State} (h : Safety.AllLoaded s.slots) :
    exec .daccalc s = .next { s with dacResult := dacCompute s.slots } := by
  show execDaccalc s = _
  rw [execDaccalc, checkSlots_loaded _ h, andThen_running, finish_running]

theorem exec_daccalc_unloaded {s : State} {n : SlotName} (h : Claims.LowestUnloaded s.slots n) :
    exec .daccalc s =
      finish (stopWith (.preconditionViolation (.slotNotLoaded n)) (encodeWord .daccalc) s) := by
  show execDaccalc s = _
  rw [execDaccalc, checkSlots_unloaded _ h, andThen_stopWith, finish_stopWith, finish_raised]

/-! ## The outcomes of DACSET (R80) -/

theorem exec_dacset_initialized {s : State} (h : s.init = true) :
    exec .dacset s = .next { s with
      dacr := s.opa, events := s.events ++ [.barrier, .dacrWrite s.opa, .barrier] } := by
  have hrun : exec .dacset s = finish (.running (hwWrite (.dacrWrite s.opa) (emit .barrier s))) :=
    congrArg finish (if_pos h)
  simp [hrun]

theorem exec_dacset_beforeInit {s : State} (h : s.init = false) :
    exec .dacset s = finish (stopWith (.preconditionViolation .beforeInit) (encodeWord .dacset) s) :=
  congrArg finish (if_neg (by simp [h]))

end Sys2Proof.Machine

namespace Sys2Proof.Proofs

open Sys2Proof.Machine

/-- Settles O30: the slot check decides between the mask and the error on the lowest unloaded slot. -/
theorem daccalcWritesMask : Obligations.DaccalcWritesMask := fun _ =>
  ⟨Laws.Encoding.daccalc rfl, exec_daccalc_loaded,
    fun _ hn => (exec_daccalc_unloaded hn).trans (finish_stopWith_eq_halts ..)⟩

/-- Settles O32: `init` alone guards the write, whatever OPA and the lifecycle state are. -/
theorem dacsetWritesDacr : Obligations.DacsetWritesDacr := fun _ =>
  ⟨Laws.Encoding.dacset rfl, exec_dacset_initialized,
    fun hi => (exec_dacset_beforeInit hi).trans (finish_stopWith_eq_halts ..)⟩

end Sys2Proof.Proofs

/-! # The lifecycle: the policy presets and DISABLE (42_lifecycle.md) -/

namespace Sys2Proof.Machine

/-! ## The policy presets, slot by slot (R82) -/

@[simp] theorem applyPolicy_asIs (f : Slots) : applyPolicy .asIs f = f := rfl

theorem slotAt_applyPolicy_cached (f : Slots) (n : SlotName) :
    slotAt (applyPolicy .cached f) n = setAttr (if n = .device then 1 else 3) (slotAt f n) := by
  cases n <;> rfl

theorem slotAt_applyPolicy_uncached (f : Slots) (n : SlotName) :
    slotAt (applyPolicy .uncached f) n = setAttr (if n = .device then 0 else 2) (slotAt f n) := by
  cases n <;> rfl

/-! ## DISABLE's body (R86) -/

/-- Driving the MMU off takes no environment answer, so the self-check gets the answer due before it (R34). -/
theorem mmuReport_driveMmuOff (s : State) : mmuReport (driveMmuOff s) = mmuReport s := by
  rw [driveMmuOff_eq]
  exact mmuReport_congr rfl rfl

theorem takeMmuReport_driveMmuOff (s : State) : takeMmuReport (driveMmuOff s) =
    { takeMmuReport s with mmuEn := false, events := s.events ++ Claims.disableEvents } := by
  rw [driveMmuOff_eq]
  unfold takeMmuReport Claims.disableEvents
  cases s.mmuReports <;> rfl

theorem disableBody_reportedOff (w : Word) {s : State} (h : mmuReport s = false) :
    disableBody w s = .running (Claims.disabledState s) := by
  simp [disableBody, mmuReport_driveMmuOff, h, takeMmuReport_driveMmuOff, unmapAll, Claims.disabledState]

theorem disableBody_reportedOn (w : Word) {s : State} (h : mmuReport s = true) :
    disableBody w s = stopWith (.preconditionViolation .mmuReportsEnabled) w
      { takeMmuReport s with mmuEn := false, events := s.events ++ Claims.disableEvents } := by
  simp [disableBody, mmuReport_driveMmuOff, h, takeMmuReport_driveMmuOff]

/-! ## DISABLE's guard (R86) -/

theorem exec_disable_mapped {s : State} (h : s.life = .mapped) :
    exec .disable s = finish (disableBody (encodeWord .disable) s) :=
  congrArg finish (if_pos h)

theorem exec_disable_disabled {s : State} (h : s.life = .disabled) :
    exec .disable s =
      finish (stopWith (.preconditionViolation .disableWhileDisabled) (encodeWord .disable) s) :=
  congrArg finish (if_neg (by simp [h]))

end Sys2Proof.Machine

namespace Sys2Proof.Proofs

open Sys2Proof.Machine

/-- Settles O34: a preset rewrites one attribute code in every slot, and the device slot has its own. -/
theorem policyAttributes : Obligations.PolicyAttributes := fun f n =>
  ⟨congrArg (slotAt · n) (applyPolicy_asIs f), slotAt_applyPolicy_cached f n,
    slotAt_applyPolicy_uncached f n, rfl, rfl, rfl⟩

/-- Settles O41: the life state guards the command; then the MMU's report, which driving it off does not change,
decides between unmapping and the error. -/
theorem disableUnmaps : Obligations.DisableUnmaps := by
  refine fun s => ⟨Laws.Encoding.disable rfl, fun hl hr => ?_, fun hl hr => ?_, fun hl => ?_⟩
  · rw [exec_disable_mapped hl, disableBody_reportedOff _ hr, finish_running, Claims.disabledState]
  · rw [exec_disable_mapped hl, disableBody_reportedOn _ hr]
    exact finish_stopWith_eq_halts ..
  · exact (exec_disable_disabled hl).trans (finish_stopWith_eq_halts ..)

end Sys2Proof.Proofs

/-! # Exceptions: what a `raise` leaves behind (60_exceptions.md) -/

namespace Sys2Proof.Proofs

open Sys2Proof.Machine

/-- Settles O19: the steps that were to follow a `raise` are skipped, and the command then ends in R90's state. -/
theorem raiseLatchesRecord : Obligations.RaiseLatchesRecord := by
  intro e w s later
  rw [andThen_stopWith]
  exact finish_stopWith_eq_halts e w s

end Sys2Proof.Proofs

/-! # What a command can do: every outcome, once -/

namespace Sys2Proof.Machine

open Safety

theorem life_eq_disabled {s : State} (h : s.life ≠ .mapped) : s.life = .disabled := by
  cases hl : s.life with
  | disabled => rfl
  | mapped => exact absurd hl h

/-! ## The pins of a layout, written one after the other (R73, R85) -/

/-- The entries from index `k` on replaced by these pins, as far as the table goes. -/
def placePins (hw : Vector Pin 8) (k : Nat) : List Pin → Vector Pin 8
  | [] => hw
  | p :: ps => placePins (hw.setIfInBounds k p) (k + 1) ps

/-- The bracketed writes of these pins to the entries from index `k` on. -/
def pinWrites (k : Nat) : List Pin → List Event
  | [] => []
  | p :: ps => .pinWrite (Fin.ofNat 8 k) p :: .barrier :: pinWrites (k + 1) ps

/-- The state after COMMIT's loop has written these pins and counted them. -/
def pinned (ps : List Pin) (s : State) : State :=
  { s with
    hw := placePins s.hw s.next ps
    next := s.next + ps.length
    layout := { s.layout with pinsUsed := s.layout.pinsUsed + ps.length }
    events := s.events ++ pinWrites s.next ps }

theorem pinned_nil (s : State) : pinned [] s = s := by
  simp [pinned, placePins, pinWrites]

theorem setIfInBounds_eq_set (hw : Vector Pin 8) {k : Nat} (p : Pin) (h : k < 8) :
    hw.setIfInBounds k p = hw.set k p h := by
  ext1 j hj
  rw [Vector.getElem_setIfInBounds, Vector.getElem_set]

/-- One more pin: the loop's step, then the rest of the pins. -/
theorem pinned_cons {s : State} (p : Pin) (ps : List Pin) (h : s.next < 8) :
    pinned (p :: ps) s = pinned ps (countPin (writePin p s h)) := by
  have hi : Fin.ofNat 8 s.next = ⟨s.next, h⟩ := Fin.ext (Nat.mod_eq_of_lt h)
  simp only [pinned, placePins, pinWrites, setIfInBounds_eq_set _ _ h, hi]
  simp [countPin, writePin, Nat.add_assoc, Nat.add_comm 1]

/-- An entry the pins reach holds its pin; every other entry is as it was. -/
theorem getElem_placePins (hw : Vector Pin 8) (k : Nat) (ps : List Pin) {j : Nat} (hj : j < 8) :
    (placePins hw k ps)[j] = if k ≤ j then ps[j - k]?.getD hw[j] else hw[j] := by
  induction ps generalizing hw k with
  | nil => simp [placePins]
  | cons p ps ih =>
    rw [placePins, ih, Vector.getElem_setIfInBounds]
    obtain h | rfl | h := Nat.lt_trichotomy j k
    · grind
    · simp
    · obtain ⟨d, rfl⟩ : ∃ d, j = k + 1 + d := ⟨j - (k + 1), by omega⟩
      simp [show k + 1 + d - k = d + 1 by omega, show k ≤ k + 1 + d by omega,
        show k ≠ k + 1 + d by omega]

/-- The loop has written these pins without running over the table. -/
def Fits (ps : List Pin) (s : State) : Prop := ps ≠ [] → s.next + ps.length ≤ 8

/-- COMMIT's loop over slots that all encode writes their pins, if the table has room for them. -/
theorem pinSlots_encodes {P : Params} (w : Word) {pins : SlotName → Pin} (ns rest : List SlotName) {s : State}
    (hfit : s.next + ns.length ≤ 8)
    (h : ∀ n ∈ ns, aligned (slotAt s.slots n).sec.addr (slotAt s.slots n).sec.gr = true ∧
      encodeChecked P (slotAt s.slots n).sec = .ok (pins n)) :
    pinSlots P w (ns ++ rest) s = pinSlots P w rest (pinned (ns.map pins) s) := by
  induction ns generalizing s with
  | nil => rw [List.map_nil, pinned_nil, List.nil_append]
  | cons n ns ih =>
    rw [List.length_cons] at hfit
    obtain ⟨ha, hp⟩ := h n (by simp)
    have hlt : s.next < 8 := by omega
    rw [List.cons_append, pinSlots_cons w hlt ha hp, List.map_cons, pinned_cons _ _ hlt]
    exact ih (by simp; omega) fun m hm => by simpa using h m (by simp [hm])

/-- COMMIT's loop writes some pins, one per slot, and ends after the last slot or raises before it. -/
theorem pinSlots_cases (P : Params) (w : Word) (ns : List SlotName) (s : State) :
    ∃ ps, Fits ps s ∧ ps.length ≤ ns.length ∧
      ((pinSlots P w ns s = .running (pinned ps s) ∧ ps.length = ns.length) ∨
        ∃ e, pinSlots P w ns s = .raised (raiseError e w (pinned ps s))) := by
  induction ns generalizing s with
  | nil => exact ⟨[], fun h => absurd rfl h, Nat.le_refl _, .inl ⟨by rw [pinned_nil]; rfl, rfl⟩⟩
  | cons n ns ih =>
    rcases pinCommit_cases P w (slotAt s.slots n).sec s with ⟨e, he⟩ | ⟨h, p, ha, hp, -⟩
    · refine ⟨[], fun h => absurd rfl h, Nat.zero_le _, .inr ⟨e, ?_⟩⟩
      rw [pinSlots, he, andThen_raised, pinned_nil]
    · obtain ⟨ps, hfit, hlen, hr⟩ := ih (countPin (writePin p s h))
      refine ⟨p :: ps, fun _ => ?_, by simpa using hlen, ?_⟩
      · rcases ps with _ | ⟨q, qs⟩
        · exact h
        · have := hfit (by simp)
          simp only [countPin_next, writePin_next, List.length_cons] at this ⊢
          omega
      · rw [pinSlots_cons w h ha hp, pinned_cons p ps h]
        simpa using hr

/-! ## COMMIT's body (R85) -/

/-- COMMIT's steps after the pin loop: the mapping, the self-checks and the caches, the last two assignments. -/
def finishCommit (P : Params) (w : Word) (pol : Policy) (s : State) : Progress :=
  andThen (checkMmuOn w (driveMapping P s)) fun s =>
  andThen (driveCaches w pol s) fun s =>
  .running (markMapped s)

theorem commitBody_loaded {P : Params} (w : Word) (pol : Policy) {s : State} (hl : s.life = .disabled)
    (h : AllLoaded s.slots) :
    commitBody P w pol s = andThen (pinSlots P w slotOrder (beginCommit pol s)) (finishCommit P w pol) := by
  rw [commitBody, if_neg (by simp [hl]), checkSlots_loaded w h]
  rfl

/-- The state after the MMU self-check has taken its answer. -/
def mappingDriven (P : Params) (s : State) : State := takeMmuReport (driveMapping P s)

/-- The state after the cache step under a policy, its answer taken where it asks for one. -/
def cachesDriven (pol : Policy) (s : State) : State :=
  match cacheTarget pol with
  | none => s
  | some (i, d) => takeCacheReport (hwWrite (.cacheEnable i d) s)

/-- DISABLE's hardware steps, and the answer it samples (R86). -/
def mmuDrivenOff (s : State) : State := takeMmuReport (driveMmuOff s)

/-! ## The stages of COMMIT and DISABLE, and INIT's end, as updates of the state before them -/

/-- The draw counter after a sample that takes its answer from this list if it can (R34). -/
def drawsAfter {α : Type} (reports : List α) (draws : Nat) : Nat :=
  if reports.isEmpty then draws + 1 else draws

theorem takeMmuReport_eq (s : State) : takeMmuReport s =
    { s with mmuReports := s.mmuReports.tail, draws := drawsAfter s.mmuReports s.draws } := by
  unfold takeMmuReport drawsAfter
  split <;> simp [*]

theorem takeCacheReport_eq (s : State) : takeCacheReport s =
    { s with cacheReports := s.cacheReports.tail, draws := drawsAfter s.cacheReports s.draws } := by
  unfold takeCacheReport drawsAfter
  split <;> simp [*]

theorem mappingDriven_eq (P : Params) (s : State) : mappingDriven P s = { s with
    layout := { s.layout with domAccum := dacCompute s.slots }
    dacr := dacCompute s.slots
    asid := P.fixedAsid
    mmuEn := true
    events := s.events ++ [.dacrWrite (dacCompute s.slots), .barrier, .asidWrite P.fixedAsid, .barrier,
      .mmuEnable true, .barrier]
    mmuReports := s.mmuReports.tail
    draws := drawsAfter s.mmuReports s.draws } := by
  rw [mappingDriven, driveMapping_eq, takeMmuReport_eq]

theorem cachesDriven_eq (pol : Policy) (s : State) : cachesDriven pol s = { s with
    icEn := ((cacheTarget pol).map (·.1)).getD s.icEn
    dcEn := ((cacheTarget pol).map (·.2)).getD s.dcEn
    events := s.events ++ Claims.cacheEvents pol
    cacheReports := if cacheTarget pol = none then s.cacheReports else s.cacheReports.tail
    draws := if cacheTarget pol = none then s.draws else drawsAfter s.cacheReports s.draws } := by
  unfold cachesDriven Claims.cacheEvents
  split
  · next h => simp [h]
  · next h => simp [h, takeCacheReport_eq]

theorem mmuDrivenOff_eq (s : State) : mmuDrivenOff s = { s with
    mmuEn := false
    events := s.events ++ Claims.disableEvents
    mmuReports := s.mmuReports.tail
    draws := drawsAfter s.mmuReports s.draws } := by
  rw [mmuDrivenOff, takeMmuReport_driveMmuOff, takeMmuReport_eq]

/-- Writing every entry in ascending order leaves nothing of the old table. -/
theorem set_every_entry (hw : Vector Pin 8) (p : Pin) :
    pinOrder.foldl (fun v i => v.set i p) hw = Vector.replicate 8 p := by
  ext1 j hj
  simp only [pinOrder, List.foldl_cons, List.foldl_nil, Vector.getElem_set, Vector.getElem_replicate]
  interval_cases j <;> rfl

theorem initBlock_eq (s : State) : initBlock s = { s with
    init := true, next := 0, hw := Vector.replicate 8 Pin.zero, dacr := 0, icEn := false, dcEn := false
    events := s.events ++ [.barrier, .cacheEnable false false, .barrier, .cacheInvalidateAll, .tlbInvalidateAll,
      .barrier, .pinWrite 0 Pin.zero, .barrier, .pinWrite 1 Pin.zero, .barrier, .pinWrite 2 Pin.zero, .barrier,
      .pinWrite 3 Pin.zero, .barrier, .pinWrite 4 Pin.zero, .barrier, .pinWrite 5 Pin.zero, .barrier,
      .pinWrite 6 Pin.zero, .barrier, .pinWrite 7 Pin.zero, .barrier, .dacrWrite 0, .barrier] } := by
  rw [← set_every_entry s.hw]
  simp [initBlock, pinOrder]

/-- The cache step passes unless the policy asks for enables that the caches do not report (R85). -/
theorem driveCaches_cases (w : Word) (pol : Policy) (s : State) :
    driveCaches w pol s = .running (cachesDriven pol s) ∨
    ∃ e, driveCaches w pol s = .raised (raiseError e w (cachesDriven pol s)) := by
  unfold driveCaches cachesDriven
  cases cacheTarget pol with
  | none => exact .inl rfl
  | some t =>
    dsimp only
    split
    · exact .inl rfl
    · exact .inr ⟨_, rfl⟩

/-- Behind the pin loop COMMIT completes, or raises at the MMU's report or at the caches' report (R85). -/
theorem finishCommit_cases (P : Params) (w : Word) (pol : Policy) (s : State) :
    finishCommit P w pol s = .running (markMapped (cachesDriven pol (mappingDriven P s))) ∨
    (∃ e, finishCommit P w pol s = .raised (raiseError e w (mappingDriven P s))) ∨
    (∃ e, finishCommit P w pol s = .raised (raiseError e w (cachesDriven pol (mappingDriven P s)))) := by
  rcases checkMmuOn_cases w (driveMapping P s) with ⟨-, hr⟩ | ⟨-, hr⟩
  · have hon : finishCommit P w pol s =
        andThen (driveCaches w pol (mappingDriven P s)) fun s => .running (markMapped s) := by
      rw [finishCommit, hr]
      rfl
    rcases driveCaches_cases w pol (mappingDriven P s) with hc | ⟨e, hc⟩ <;> rw [hon, hc]
    · exact .inl rfl
    · exact .inr (.inr ⟨e, rfl⟩)
  · rw [finishCommit, hr]
    exact .inr (.inl ⟨_, rfl⟩)

/-- The states from which COMMIT's body can raise: before any write, in the pin loop, at the MMU's report, at the
caches' report. -/
inductive CommitStage (P : Params) (pol : Policy) (s : State) : State → Prop
  | guards : CommitStage P pol s s
  | pins {ps : List Pin} (hfit : Fits ps s) (hlen : ps.length ≤ 5) :
    CommitStage P pol s (pinned ps (beginCommit pol s))
  | mapping {ps : List Pin} (hfit : Fits ps s) (hlen : ps.length = 5) :
    CommitStage P pol s (mappingDriven P (pinned ps (beginCommit pol s)))
  | caches {ps : List Pin} (hfit : Fits ps s) (hlen : ps.length = 5) :
    CommitStage P pol s (cachesDriven pol (mappingDriven P (pinned ps (beginCommit pol s))))

/-- What COMMIT's body can do: raise from one of its stages, or map the layout from Disabled. -/
inductive CommitOutcome (P : Params) (w : Word) (pol : Policy) (s : State) : Progress → Prop
  | raised {u : State} (e : BlockError) (h : CommitStage P pol s u) :
    CommitOutcome P w pol s (.raised (raiseError e w u))
  | mapped {ps : List Pin} (hlife : s.life = .disabled) (hload : AllLoaded s.slots) (hfit : Fits ps s)
    (hlen : ps.length = 5) : CommitOutcome P w pol s
      (.running (markMapped (cachesDriven pol (mappingDriven P (pinned ps (beginCommit pol s))))))

theorem commitBody_outcome (P : Params) (w : Word) (pol : Policy) (s : State) :
    CommitOutcome P w pol s (commitBody P w pol s) := by
  by_cases hm : s.life = .mapped
  · rw [commitBody, if_pos hm]
    exact .raised _ .guards
  have hlife := life_eq_disabled hm
  rcases checkSlots_cases w s with ⟨n, -, -, hr⟩ | ⟨hload, -⟩
  · rw [commitBody, if_neg hm, hr]
    exact .raised _ .guards
  rw [commitBody_loaded w pol hlife hload]
  obtain ⟨ps, hfit, hle, ⟨hr, hlen⟩ | ⟨e, hr⟩⟩ := pinSlots_cases P w slotOrder (beginCommit pol s)
  · rw [hr, andThen_running]
    rcases finishCommit_cases P w pol (pinned ps (beginCommit pol s)) with hr | ⟨e, hr⟩ | ⟨e, hr⟩ <;> rw [hr]
    · exact .mapped hlife hload hfit hlen
    · exact .raised e (.mapping hfit hlen)
    · exact .raised e (.caches hfit hlen)
  · rw [hr]
    exact .raised e (.pins hfit hle)

/-! ## The other bodies -/

/-- SETSEC's body raises, or loads its slot with a descriptor it has checked, while Disabled (R74). -/
theorem loadSlot_cases (P : Params) (w : Word) (n : SlotName) (d : Descriptor) (s : State) :
    (∃ e, loadSlot P w n d s = .raised (raiseError e w s)) ∨
    (s.life = .disabled ∧ aligned d.addr d.gr = true ∧ domOk P.ssDomainPolicy d.dom d.gr = true ∧
      loadSlot P w n d s = .running { s with slots := slotPut s.slots n ⟨true, d⟩ }) := by
  by_cases hm : s.life = .mapped
  · exact .inl ⟨_, loadSlot_mapped hm⟩
  have hl := life_eq_disabled hm
  cases ha : aligned d.addr d.gr with
  | false => exact .inl ⟨_, loadSlot_misaligned hl ha⟩
  | true =>
    cases hd : domOk P.ssDomainPolicy d.dom d.gr with
    | false => exact .inl ⟨_, loadSlot_illegalDomain hl ha hd⟩
    | true => exact .inr ⟨hl, rfl, rfl, loadSlot_ok hl ha hd⟩

/-- ENCODE's body raises, or writes the encoder's result (R75). -/
theorem encodeOnly_cases (P : Params) (w : Word) (d : Descriptor) (s : State) :
    (∃ e, encodeOnly P w d s = .raised (raiseError e w s)) ∨
    (∃ p, encodeOnly P w d s = .running { s with enc := p }) := by
  cases ha : aligned d.addr d.gr with
  | false => exact .inl ⟨_, encodeOnly_misaligned ha⟩
  | true =>
    cases he : encodeChecked P d with
    | error e => exact .inl ⟨e, encodeOnly_error ha he⟩
    | ok p => exact .inr ⟨p, encodeOnly_ok ha he⟩

/-! ## Every command -/

/-- What a command can do: one constructor per way it can end. COMMIT and the commit half of REMAP are told apart
further by `commitBody_outcome`. -/
inductive Effect : Instr → State → State → Prop
  | raised (i : Instr) (s : State) (e : BlockError) (w : Word) : Effect i s (raiseError e w s)
  | init {s : State} (h : s.init = false) : Effect .init s (initBlock s)
  | setsec {slot : BitVec 3} {gr : BitVec 1} {dom : BitVec 8} {perm : BitVec 2} {attr : BitVec 3} {s : State}
    (n : SlotName) (hlife : s.life = .disabled) (ha : aligned s.opa gr = true)
    (hd : domOk Config.params.ssDomainPolicy dom gr = true) : Effect (.setsec slot gr dom perm attr) s
      { s with slots := slotPut s.slots n ⟨true, ⟨s.opa, gr, dom, perm, attr⟩⟩ }
  | encode {gr : BitVec 1} {dom : BitVec 8} {perm : BitVec 2} {attr : BitVec 3} (s : State) (p : Pin) :
    Effect (.encode gr dom perm attr) s { s with enc := p }
  | pinRaised {gr : BitVec 1} {dom : BitVec 8} {perm : BitVec 2} {attr : BitVec 3} (s : State) (e : BlockError)
    (w : Word) : Effect (.pin gr dom perm attr) s (raiseError e w (emit .barrier s))
  | pin {gr : BitVec 1} {dom : BitVec 8} {perm : BitVec 2} {attr : BitVec 3} {s : State} (p : Pin)
    (h : (emit .barrier s).next < 8) : Effect (.pin gr dom perm attr) s (writePin p (emit .barrier s) h)
  | daccalc (s : State) (v : Word) : Effect .daccalc s { s with dacResult := v }
  | dacset (s : State) (v : Word) : Effect .dacset s (hwWrite (.dacrWrite v) (emit .barrier s))
  | commit {pol : BitVec 2} {p : Policy} {s : State} (w : Word) (hinit : s.init = true) :
    Effect (.commit pol) s (commitBody Config.params w p s).state
  | disableRaised {s : State} (e : BlockError) (w : Word) :
    Effect .disable s (raiseError e w (mmuDrivenOff s))
  | disable (s : State) : Effect .disable s (unmapAll (mmuDrivenOff s))
  | remapRaised {pol : BitVec 2} {s : State} (e : BlockError) (w : Word) (hinit : s.init = true) :
    Effect (.remap pol) s (raiseError e w (mmuDrivenOff s))
  | remapMapped {pol : BitVec 2} {p : Policy} {s : State} (w : Word) (hinit : s.init = true)
    (hlife : s.life = .mapped) :
    Effect (.remap pol) s (commitBody Config.params w p (unmapAll (mmuDrivenOff s))).state
  | remapDisabled {pol : BitVec 2} {p : Policy} {s : State} (w : Word) (hinit : s.init = true)
    (hlife : s.life ≠ .mapped) : Effect (.remap pol) s (commitBody Config.params w p s).state

theorem effect_setsec (slot : BitVec 3) (gr : BitVec 1) (dom : BitVec 8) (perm : BitVec 2) (attr : BitVec 3)
    {s t : State} (h : exec (.setsec slot gr dom perm attr) s = .next t) :
    Effect (.setsec slot gr dom perm attr) s t := by
  cases hn : slotOf slot with
  | none =>
    rw [exec, execSetsec, hn] at h
    cases h
    exact .raised ..
  | some n =>
    rw [exec_setsec hn] at h
    rcases loadSlot_cases Config.params _ n ⟨s.opa, gr, dom, perm, attr⟩ s with ⟨e, hr⟩ | ⟨hl, ha, hd, hr⟩
    · rw [hr] at h
      cases h
      exact .raised ..
    · rw [hr] at h
      cases h
      exact .setsec n hl ha hd

theorem effect_encode (gr : BitVec 1) (dom : BitVec 8) (perm : BitVec 2) (attr : BitVec 3) {s t : State}
    (h : exec (.encode gr dom perm attr) s = .next t) : Effect (.encode gr dom perm attr) s t := by
  rw [exec_encode] at h
  rcases encodeOnly_cases Config.params _ ⟨s.opa, gr, dom, perm, attr⟩ s with ⟨e, hr⟩ | ⟨p, hr⟩
  · rw [hr] at h
    cases h
    exact .raised ..
  · rw [hr] at h
    cases h
    exact .encode s p

/-- PIN is its body on the descriptor from OPA (R57, R76). -/
theorem exec_pin (gr : BitVec 1) (dom : BitVec 8) (perm : BitVec 2) (attr : BitVec 3) (s : State) :
    exec (.pin gr dom perm attr) s = finish (pinOnly Config.params (encodeWord (.pin gr dom perm attr))
      ⟨s.opa, gr, dom, perm, attr⟩ s) := rfl

theorem effect_pin (gr : BitVec 1) (dom : BitVec 8) (perm : BitVec 2) (attr : BitVec 3) {s t : State}
    (h : exec (.pin gr dom perm attr) s = .next t) : Effect (.pin gr dom perm attr) s t := by
  rw [exec_pin, pinOnly] at h
  split at h
  · rcases pinCommit_cases Config.params (encodeWord (.pin gr dom perm attr)) ⟨s.opa, gr, dom, perm, attr⟩
      (emit .barrier s) with ⟨e, hr⟩ | ⟨hlt, p, -, -, hr⟩
    · rw [hr] at h
      cases h
      exact .pinRaised ..
    · rw [hr] at h
      cases h
      exact .pin p hlt
  · cases h
    exact .raised ..

theorem effect_daccalc {s t : State} (h : exec .daccalc s = .next t) : Effect .daccalc s t := by
  rw [exec, execDaccalc] at h
  rcases checkSlots_cases (encodeWord .daccalc) s with ⟨n, -, -, hr⟩ | ⟨-, hr⟩ <;> rw [hr] at h <;> cases h
  · exact .raised ..
  · exact .daccalc ..

theorem effect_dacset {s t : State} (h : exec .dacset s = .next t) : Effect .dacset s t := by
  rw [exec, execDacset] at h
  split at h <;> cases h
  · exact .dacset ..
  · exact .raised ..

theorem effect_init {s t : State} (h : exec .init s = .next t) : Effect .init s t := by
  rw [exec, execInit] at h
  split at h
  · cases h
    exact .raised ..
  · next hi =>
    cases h
    exact .init (by simpa using hi)

/-- COMMIT is the error for the reserved policy code, the error before INIT, or its body (R59, R85). -/
theorem effect_commit (pol : BitVec 2) {s t : State} (h : exec (.commit pol) s = .next t) :
    Effect (.commit pol) s t := by
  cases hp : policyOf pol with
  | none =>
    rw [exec, execCommit, hp] at h
    cases h
    exact .raised ..
  | some p =>
    rw [exec, execCommit, hp] at h
    dsimp only at h
    rw [finish_eq, commitWith] at h
    split at h
    · next hi =>
      cases h
      exact .commit _ hi
    · cases h
      exact .raised ..

theorem effect_disable {s t : State} (h : exec .disable s = .next t) : Effect .disable s t := by
  rw [exec, execDisable] at h
  split at h
  · rcases disableBody_cases (encodeWord .disable) s with ⟨-, hr⟩ | ⟨-, hr⟩ <;> rw [hr] at h <;> cases h
    · exact .disable s
    · exact .disableRaised ..
  · cases h
    exact .raised ..

/-- REMAP is the error for the reserved policy code, the error before INIT, or, from Mapped, DISABLE's body, and then
COMMIT's (R59, R87). -/
theorem effect_remap (pol : BitVec 2) {s t : State} (h : exec (.remap pol) s = .next t) :
    Effect (.remap pol) s t := by
  cases hp : policyOf pol with
  | none =>
    rw [exec, execRemap, hp] at h
    cases h
    exact .raised ..
  | some p =>
    rw [exec, execRemap, hp] at h
    dsimp only at h
    rw [finish_eq, remapWith] at h
    split at h
    · next hi =>
      split at h
      · next hm =>
        rcases disableBody_cases (encodeWord (.remap pol)) s with ⟨-, hr⟩ | ⟨-, hr⟩ <;> rw [hr] at h <;> cases h
        · exact .remapMapped _ hi hm
        · exact .remapRaised _ _ hi
      · next hm =>
        cases h
        exact .remapDisabled _ hi hm
    · cases h
      exact .raised ..

/-- Every command that ends in a state has one of the effects. -/
theorem exec_effect {i : Instr} {s t : State} (h : exec i s = .next t) : Effect i s t := by
  cases i with
  | init => exact effect_init h
  | setsec slot gr dom perm attr => exact effect_setsec slot gr dom perm attr h
  | encode gr dom perm attr => exact effect_encode gr dom perm attr h
  | pin gr dom perm attr => exact effect_pin gr dom perm attr h
  | daccalc => exact effect_daccalc h
  | dacset => exact effect_dacset h
  | commit pol => exact effect_commit pol h
  | disable => exact effect_disable h
  | remap pol => exact effect_remap pol h

end Sys2Proof.Machine

/-! # The history: what the events of a command say of the processor, and their barriers (10_state.md, 20_memory.md) -/

namespace Sys2Proof.Safety

open Machine

/-! ## Bracketed histories (R47) -/

/-- Whether a Barrier stands last, after the events `es` behind a place where `b` says so. -/
def barrierAfter (b : Bool) (es : List Event) : Bool := es.foldl (fun _ e => e == .barrier) b

/-- A Barrier before the list only helps. -/
theorem bracketedFrom_of_false {b : Bool} {es : List Event} (h : bracketedFrom false es = true) :
    bracketedFrom b es = true := by
  cases es with
  | nil => rfl
  | cons e es =>
    simp only [bracketedFrom, Bool.and_eq_true, Bool.or_eq_true] at h ⊢
    exact ⟨h.1.imp_right fun hf => absurd hf.1 (by simp), h.2⟩

/-- Behind a bracketed list the next one has to be bracketed from the flag the first one ends with. -/
theorem bracketedFrom_append {b : Bool} {es fs : List Event} (h : bracketedFrom b es = true) :
    bracketedFrom b (es ++ fs) = bracketedFrom (barrierAfter b es) fs := by
  induction es generalizing b with
  | nil => rfl
  | cons e es ih =>
    simp only [bracketedFrom, Bool.and_eq_true] at h
    have hhead : isProcessorWrite e = true → (es ++ fs).head? = es.head? := by
      cases es with
      | nil => intro he; simp [he] at h
      | cons f es => exact fun _ => rfl
    have hhere : (!isProcessorWrite e || (b && (es ++ fs).head? == some .barrier)) = true := by
      by_cases he : isProcessorWrite e = true
      · rw [hhead he]; exact h.1
      · simp [he]
    rw [List.cons_append, bracketedFrom, hhere, Bool.true_and, ih h.2]
    rfl

theorem Bracketed.append {es fs : List Event} (h : Bracketed es) (hf : Bracketed fs) : Bracketed (es ++ fs) :=
  (bracketedFrom_append h).trans (bracketedFrom_of_false hf)

/-- The writes that are pending after the events `es`, with `p` pending before them (R48). -/
def pendingAfter (p es : List Event) : List Event :=
  es.foldl (fun p e => if e = .barrier then [] else if isProcessorWrite e then p ++ [e] else p) p

/-- A bracketed list leaves no write pending if nothing is, or if a Barrier comes first: the Barrier right behind
each write covers it. -/
theorem pendingAfter_of_bracketed {b : Bool} {p es : List Event} (h : bracketedFrom b es = true)
    (hp : p = [] ∨ es.head? = some .barrier) : pendingAfter p es = [] := by
  induction es generalizing b p with
  | nil => simpa [pendingAfter] using hp
  | cons e es ih =>
    simp only [bracketedFrom, Bool.and_eq_true, Bool.or_eq_true, Bool.not_eq_true', beq_iff_eq] at h
    obtain ⟨hhere, hrest⟩ := h
    refine ih hrest ?_
    by_cases he : e = .barrier
    · exact .inl (if_pos he)
    · rcases hhere with hw | ⟨-, hnext⟩
      · rcases hp with rfl | hp
        · simp [he, hw]
        · exact absurd (Option.some.inj hp) he
      · exact .inr hnext

theorem pendingWrites_of_bracketed {es : List Event} (h : Bracketed es) : pendingWrites es = [] :=
  pendingAfter_of_bracketed h (.inl rfl)

theorem pendingWrites_append {es fs : List Event} (h : pendingWrites es = []) :
    pendingWrites (es ++ fs) = pendingWrites fs := by
  unfold pendingWrites at h ⊢
  rw [List.foldl_append, h]

/-! ## From one state to a later one -/

/-- From `s` to `t` the history grew by events that brought the record of the processor from one to the other, with
every write between barriers; `b` and `b'` say whether a Barrier stands last before and after them. -/
def Traced (b b' : Bool) (s t : State) : Prop :=
  ∃ es, t.events = s.events ++ es ∧ mirrorsOf t = perform (mirrorsOf s) es ∧ bracketedFrom b es = true ∧
    barrierAfter b es = b'

theorem Traced.refl (b : Bool) (s : State) : Traced b b s s := ⟨[], by simp, rfl, rfl, rfl⟩

theorem Traced.trans {b b' b'' : Bool} {s t u : State} (h : Traced b b' s t) (h' : Traced b' b'' t u) :
    Traced b b'' s u := by
  obtain ⟨es, hev, hm, hb, rfl⟩ := h
  obtain ⟨fs, hev', hm', hb', rfl⟩ := h'
  refine ⟨es ++ fs, by rw [hev', hev, List.append_assoc], ?_, by rw [bracketedFrom_append hb, hb'], ?_⟩
  · rw [hm', hm, perform, perform, perform, List.foldl_append]
  · simp [barrierAfter]

/-- An update of neither the history nor the record of the processor adds no event. -/
theorem Traced.of_eq {b b' : Bool} {s t u : State} (h : Traced b b' s t) (he : u.events = t.events)
    (hm : mirrorsOf u = mirrorsOf t) : Traced b b' s u := by
  obtain ⟨es, hev, hmir, hb⟩ := h
  exact ⟨es, he.trans hev, hm.trans hmir, hb⟩

/-- Emitting an event performs it (R33). -/
theorem mirrorsOf_emit (e : Event) (s : State) : mirrorsOf (emit e s) = performEvent (mirrorsOf s) e := by
  cases e <;> rfl

theorem traced_emit (b : Bool) {e : Event} (he : isProcessorWrite e = false) (s : State) :
    Traced b (e == .barrier) s (emit e s) :=
  ⟨[e], rfl, mirrorsOf_emit e s, by simp [bracketedFrom, he], rfl⟩

/-- The bracketed write goes from a Barrier to a Barrier (R47). -/
theorem traced_hwWrite (e : Event) (s : State) : Traced true true s (hwWrite e s) :=
  ⟨[e, .barrier], by simp [hwWrite], by rw [hwWrite, mirrorsOf_emit, mirrorsOf_emit]; rfl,
    by simp [bracketedFrom, isProcessorWrite], rfl⟩

theorem traced_raise (b : Bool) (e : BlockError) (w : Word) (s : State) : Traced b false s (raiseError e w s) :=
  ⟨[.fatal (errorRecord e w)], rfl, rfl, rfl, rfl⟩

theorem traced_takeMmuReport (b : Bool) (s : State) : Traced b b s (takeMmuReport s) :=
  (Traced.refl b s).of_eq (takeMmuReport_events s) (by simp [mirrorsOf])

theorem traced_takeCacheReport (b : Bool) (s : State) : Traced b b s (takeCacheReport s) :=
  (Traced.refl b s).of_eq (takeCacheReport_events s) (by simp [mirrorsOf])

/-! ## The steps of the commands -/

theorem traced_pinned {ps : List Pin} {s : State} (h : Fits ps s) : Traced true true s (pinned ps s) := by
  induction ps generalizing s with
  | nil => rw [pinned_nil]; exact .refl true s
  | cons p ps ih =>
    have hroom := h (by simp)
    rw [List.length_cons] at hroom
    have hlt : s.next < 8 := by omega
    rw [pinned_cons p ps hlt]
    refine ((traced_hwWrite (.pinWrite ⟨s.next, hlt⟩ p) s).of_eq (u := countPin (writePin p s hlt)) rfl rfl).trans
      (ih fun _ => ?_)
    rw [countPin_next, writePin_next]
    omega

/-- INIT's writes, from the history as it stands (R84). -/
theorem traced_initBlock (b : Bool) (s : State) : Traced b true s (initBlock s) := by
  have hpins : ∀ (ks : List (Fin 8)) (u : State),
      Traced true true u (ks.foldl (fun t i => hwWrite (.pinWrite i Pin.zero) t) u) := fun ks => by
    induction ks with
    | nil => exact .refl true
    | cons k ks ih => exact fun u => (traced_hwWrite _ u).trans (ih _)
  have hstart : Traced b true s (hwWrite (.cacheEnable false false) (emit .barrier s)) :=
    (traced_emit b (e := .barrier) rfl s).trans (traced_hwWrite _ _)
  have hinv := ((hstart.trans (traced_emit true (e := .cacheInvalidateAll) rfl _)).trans
    (traced_emit false (e := .tlbInvalidateAll) rfl _)).trans (traced_emit false (e := .barrier) rfl _)
  exact ((hinv.trans (hpins pinOrder _)).trans (traced_hwWrite (.dacrWrite 0) _)).of_eq rfl rfl

theorem traced_beginCommit (b : Bool) (pol : Policy) (s : State) : Traced b true s (beginCommit pol s) :=
  (traced_emit b (e := .barrier) rfl { s with slots := applyPolicy pol s.slots }).of_eq rfl rfl

theorem traced_mappingDriven (P : Params) (s : State) : Traced true true s (mappingDriven P s) :=
  ((((Traced.refl true s).of_eq (u := { s with layout := { s.layout with domAccum := dacCompute s.slots } }) rfl
    rfl).trans (traced_hwWrite (.dacrWrite (dacCompute s.slots)) _)).trans (traced_hwWrite _ _)).trans
    ((traced_hwWrite (.mmuEnable true) _).trans (traced_takeMmuReport true _))

theorem traced_cachesDriven (pol : Policy) (s : State) : Traced true true s (cachesDriven pol s) := by
  unfold cachesDriven
  split
  · exact .refl true s
  · exact (traced_hwWrite _ s).trans (traced_takeCacheReport true _)

theorem traced_mmuDrivenOff (b : Bool) (s : State) : Traced b true s (mmuDrivenOff s) :=
  ((((traced_emit b (e := .barrier) rfl s).trans (traced_hwWrite (.mmuEnable false) _)).trans
    (traced_emit true (e := .tlbSync) rfl _)).trans (traced_emit false (e := .barrier) rfl _)).trans
    (traced_takeMmuReport true _)

theorem traced_stage {P : Params} {pol : Policy} {s u : State} (b : Bool) (h : CommitStage P pol s u) :
    ∃ b', Traced b b' s u := by
  have hpins : ∀ ps, Fits ps s → Traced b true s (pinned ps (beginCommit pol s)) := fun ps hfit =>
    (traced_beginCommit b pol s).trans (traced_pinned hfit)
  cases h with
  | guards => exact ⟨b, .refl b s⟩
  | pins hfit _ => exact ⟨true, hpins _ hfit⟩
  | mapping hfit _ => exact ⟨true, (hpins _ hfit).trans (traced_mappingDriven P _)⟩
  | caches hfit _ =>
    exact ⟨true, ((hpins _ hfit).trans (traced_mappingDriven P _)).trans (traced_cachesDriven pol _)⟩

theorem traced_outcome {P : Params} {w : Word} {pol : Policy} {s : State} {p : Progress} (b : Bool)
    (h : CommitOutcome P w pol s p) : ∃ b', Traced b b' s p.state := by
  cases h with
  | raised e h =>
    obtain ⟨b', ht⟩ := traced_stage b h
    exact ⟨false, ht.trans (traced_raise b' e w _)⟩
  | mapped hlife hload hfit hlen =>
    obtain ⟨b', ht⟩ := traced_stage (P := P) (pol := pol) b (.caches hfit hlen)
    exact ⟨b', ht.of_eq rfl rfl⟩

theorem traced_commitBody (b : Bool) (P : Params) (w : Word) (pol : Policy) (s : State) :
    ∃ b', Traced b b' s (commitBody P w pol s).state :=
  traced_outcome b (commitBody_outcome P w pol s)

/-- Every command's events do what its record of the processor says, with every write between barriers. -/
theorem traced_effect {i : Instr} {s t : State} (b : Bool) (h : Effect i s t) : ∃ b', Traced b b' s t := by
  cases h with
  | raised _ _ e w => exact ⟨_, traced_raise b e w s⟩
  | init => exact ⟨_, traced_initBlock b s⟩
  | setsec => exact ⟨b, (Traced.refl b s).of_eq rfl rfl⟩
  | encode => exact ⟨b, (Traced.refl b s).of_eq rfl rfl⟩
  | pinRaised _ e w => exact ⟨_, (traced_emit b (e := .barrier) rfl s).trans (traced_raise _ e w _)⟩
  | pin p h =>
    exact ⟨_, ((traced_emit b (e := .barrier) rfl s).trans (traced_hwWrite (.pinWrite ⟨_, h⟩ p) _)).of_eq rfl rfl⟩
  | daccalc => exact ⟨b, (Traced.refl b s).of_eq rfl rfl⟩
  | dacset _ v => exact ⟨_, (traced_emit b (e := .barrier) rfl s).trans (traced_hwWrite (.dacrWrite v) _)⟩
  | commit w _ => exact traced_commitBody b _ w _ s
  | disableRaised e w => exact ⟨_, (traced_mmuDrivenOff b s).trans (traced_raise _ e w _)⟩
  | disable => exact ⟨_, (traced_mmuDrivenOff b s).of_eq rfl rfl⟩
  | remapRaised e w _ => exact ⟨_, (traced_mmuDrivenOff b s).trans (traced_raise _ e w _)⟩
  | remapMapped w _ _ =>
    obtain ⟨b', ht⟩ := traced_commitBody true Config.params w _ (unmapAll (mmuDrivenOff s))
    exact ⟨b', ((traced_mmuDrivenOff b s).of_eq (u := unmapAll (mmuDrivenOff s)) rfl rfl).trans ht⟩
  | remapDisabled w _ _ => exact traced_commitBody b _ w _ s

/-- A step that is no reset adds events that do what the record says, with every write between barriers. -/
theorem traced_step {s t : State} (hr : ¬ ResetNext s) (h : step s = .next t) : ∃ b, Traced false b s t := by
  have hidle : ∀ u : State, u.events = s.events → mirrorsOf u = mirrorsOf s → ∃ b, Traced false b s u :=
    fun u he hm => ⟨false, (Traced.refl false s).of_eq he hm⟩
  rcases step_next h with ⟨-, rfl⟩ | ⟨rest, hh, -⟩ | ⟨n, rest, -, rfl⟩ | ⟨n, v, rest, -, hw⟩
  · exact ⟨false, .refl false _⟩
  · exact absurd ⟨rest, hh⟩ hr
  · exact hidle _ rfl rfl
  · rcases hostWrite_next hw with ⟨-, -, i, -, he⟩ | ⟨-, -, e, rfl⟩ | ⟨-, rfl⟩ | rfl
    · obtain ⟨b, ht⟩ := traced_effect false (exec_effect he)
      exact ⟨b, ht⟩
    · exact ⟨false, traced_raise false _ v { s with host := rest }⟩
    · exact hidle _ rfl rfl
    · exact hidle _ rfl rfl

/-- After any step the history is the old one with bracketed events behind it, or, after a reset, empty. -/
theorem step_events {s t : State} (h : step s = .next t) :
    t.events = [] ∨ ∃ es, t.events = s.events ++ es ∧ Bracketed es := by
  by_cases hr : ResetNext s
  · left
    obtain ⟨rest, hh⟩ := hr
    rw [step_of_host_cons hh] at h
    cases h
    rfl
  · obtain ⟨b, es, hev, -, hb, -⟩ := traced_step hr h
    exact .inr ⟨es, hev, hb⟩

end Sys2Proof.Safety

namespace Sys2Proof.Proofs

open Sys2Proof.Machine Sys2Proof.Safety

/-- Settles O53: every update of the record of the processor is the emission of its event. -/
theorem mirrorsFollowHistory : Obligations.MirrorsFollowHistory := by
  intro s t hr h
  obtain ⟨b, es, hev, hm, -⟩ := traced_step hr h
  exact ⟨es, hev, hm⟩

/-- Settles O54: a step adds a list that is bracketed by itself. -/
theorem writesStayBracketed : Obligations.WritesStayBracketed := by
  intro s t hs h
  rcases step_events h with he | ⟨es, he, hb⟩
  · rw [he]; rfl
  · rw [he]; exact hs.append hb

/-- Settles O56: the bracketed list a step adds leaves no write pending. -/
theorem noWriteStaysPending : Obligations.NoWriteStaysPending := by
  intro s t hs h
  rcases step_events h with he | ⟨es, he, hb⟩
  · rw [he]; rfl
  · rw [he, pendingWrites_append hs]; exact pendingWrites_of_bracketed hb

/-- Settles O55: the history right after reset is empty. -/
theorem bracketedAtReset : Obligations.BracketedAtReset := ⟨rfl, rfl⟩

end Sys2Proof.Proofs

/-! # The block's own invariant, and what a halted block does (10_state.md) -/

namespace Sys2Proof.Safety

open Machine

/-! ## Slots and the history -/

theorem slotAt_applyPolicy_attr (pol : Policy) (f : Slots) (n : SlotName) :
    ∃ a, slotAt (applyPolicy pol f) n = setAttr a (slotAt f n) := by
  cases pol with
  | asIs => exact ⟨(slotAt f n).sec.attr, rfl⟩
  | cached => exact ⟨_, slotAt_applyPolicy_cached f n⟩
  | uncached => exact ⟨_, slotAt_applyPolicy_uncached f n⟩

theorem slotSound_applyPolicy {pol : Policy} {f : Slots} (h : ∀ n, SlotSound (slotAt f n)) (n : SlotName) :
    SlotSound (slotAt (applyPolicy pol f) n) := by
  obtain ⟨a, ha⟩ := slotAt_applyPolicy_attr pol f n
  rw [ha]
  exact h n

theorem allLoaded_applyPolicy {pol : Policy} {f : Slots} (h : AllLoaded f) : AllLoaded (applyPolicy pol f) := by
  intro n
  obtain ⟨a, ha⟩ := slotAt_applyPolicy_attr pol f n
  rw [ha]
  exact h n

/-- A policy rewrites no domain, so the mask stays (R78, R82). -/
theorem dacCompute_applyPolicy (pol : Policy) (f : Slots) : dacCompute (applyPolicy pol f) = dacCompute f := by
  cases pol <;> rfl

theorem slotSound_slotPut {f : Slots} {n : SlotName} {v : Slot} (h : ∀ m, SlotSound (slotAt f m))
    (hv : SlotSound v) (m : SlotName) : SlotSound (slotAt (slotPut f n v) m) := by
  by_cases hm : m = n
  · rw [hm, slotAt_slotPut]; exact hv
  · rw [slotAt_slotPut_ne f v hm]; exact h m

theorem lt_of_domOk {policy : SsDomainPolicy} {dom : BitVec 8} {gr : BitVec 1}
    (h : domOk policy dom gr = true) : dom.toNat < 16 := by
  simp only [domOk, Bool.and_eq_true, decide_eq_true_eq] at h
  exact h.1.1

theorem EveryPinWritten.of_append {es fs gs : List Event} (h : EveryPinWritten es) (hg : gs = es ++ fs) :
    EveryPinWritten gs := by
  intro i
  obtain ⟨p, hp⟩ := h i
  exact ⟨p, by simp [hg, hp]⟩

theorem Traced.everyPinWritten {b b' : Bool} {s t : State} (h : Traced b b' s t)
    (hs : EveryPinWritten s.events) : EveryPinWritten t.events := by
  obtain ⟨es, hev, -⟩ := h
  exact hs.of_append hev

/-! ## The part of the invariant that holds at every stage of a command -/

/-- The bounds, the slots and the history of `BlockInv`, which hold also where a command is under way or halts. -/
structure Sound (s : State) : Prop where
  next_le : s.next ≤ 8
  pinsUsed_le : s.layout.pinsUsed ≤ 5
  slots_sound : ∀ n, SlotSound (slotAt s.slots n)
  pins_written : s.init = true → EveryPinWritten s.events
  off_before_init : s.init = false → s.mmuEn = false

theorem BlockInv.sound {s : State} (h : BlockInv s) : Sound s := { h with }

/-- Wherever a command raises, the halted block has the invariant (R90). -/
theorem Sound.raise {s : State} (h : Sound s) (e : BlockError) (w : Word) : BlockInv (raiseError e w s) where
  next_le := h.next_le
  pinsUsed_le := h.pinsUsed_le
  slots_sound := h.slots_sound
  pins_written hi := (h.pins_written hi).of_append rfl
  off_before_init := h.off_before_init
  committed_iff hh := by simp at hh
  mapped_sound hh := by simp at hh
  mapped_mask hh := by simp at hh
  no_record hh := by simp at hh
  halted_record _ := by simp

/-- A block that is not initialized and not halted is Disabled (R36 (b)). -/
theorem BlockInv.life_ne_mapped {s : State} (h : BlockInv s) (hh : s.halted = false) (hi : s.init = false) :
    s.life ≠ .mapped := by
  intro hm
  obtain ⟨hinit, -⟩ := h.mapped_sound hh hm
  simp [hi] at hinit

/-- A later state of an initialized block, with its bounds and slots still in order. -/
theorem Sound.of_traced {s t : State} {b b' : Bool} (h : Sound s) (htr : Traced b b' s t) (hs : s.init = true)
    (hinit : t.init = true) (hnext : t.next ≤ 8) (hused : t.layout.pinsUsed ≤ 5)
    (hslots : ∀ n, SlotSound (slotAt t.slots n)) : Sound t where
  next_le := hnext
  pinsUsed_le := hused
  slots_sound := hslots
  pins_written _ := htr.everyPinWritten (h.pins_written hs)
  off_before_init hi := by simp [hinit] at hi

/-! ## COMMIT -/

/-- Pins that fit leave `next` inside the table. -/
theorem next_add_le {ps : List Pin} {s : State} (hs : s.next ≤ 8) (h : Fits ps s) : s.next + ps.length ≤ 8 := by
  by_cases hp : ps = []
  · simpa [hp] using hs
  · exact h hp

theorem sound_stage {P : Params} {pol : Policy} {s u : State} (hs : Sound s) (hi : s.init = true)
    (h : CommitStage P pol s u) : Sound u := by
  obtain ⟨b, htr⟩ := traced_stage true h
  have hslots := slotSound_applyPolicy (pol := pol) hs.slots_sound
  cases h with
  | guards => exact hs
  | pins hfit hlen =>
    exact hs.of_traced htr hi hi (next_add_le hs.next_le hfit) (by simpa [pinned, beginCommit_eq] using hlen) hslots
  | mapping hfit hlen =>
    rw [mappingDriven_eq] at htr ⊢
    exact hs.of_traced htr hi hi (next_add_le hs.next_le hfit) (by simp [pinned, beginCommit_eq, hlen]) hslots
  | caches hfit hlen =>
    rw [cachesDriven_eq, mappingDriven_eq] at htr ⊢
    exact hs.of_traced htr hi hi (next_add_le hs.next_le hfit) (by simp [pinned, beginCommit_eq, hlen]) hslots

/-- COMMIT's body keeps the invariant from any state of an initialized block where it can run (R36, R85). -/
theorem blockInv_outcome {P : Params} {w : Word} {pol : Policy} {s : State} {p : Progress} (hs : Sound s)
    (hi : s.init = true) (hh : s.halted = false) (herr : s.err = ErrRecord.none)
    (h : CommitOutcome P w pol s p) : BlockInv p.state := by
  cases h with
  | raised e h => exact (sound_stage hs hi h).raise e w
  | mapped hlife hload hfit hlen =>
    have hsound : Sound _ := sound_stage (P := P) (pol := pol) hs hi (.caches hfit hlen)
    rw [Progress.state]
    rw [cachesDriven_eq, mappingDriven_eq] at hsound ⊢
    refine { hsound with
      committed_iff := ?_, mapped_sound := ?_, mapped_mask := ?_, no_record := ?_, halted_record := ?_ }
    · exact fun _ => ⟨fun _ => rfl, fun _ => rfl⟩
    · exact fun _ _ => ⟨hi, rfl, allLoaded_applyPolicy hload, by simp [markMapped, pinned, beginCommit_eq, hlen]⟩
    · exact fun _ _ => rfl
    · exact fun _ => herr
    · intro h
      exact absurd (hh.symm.trans h) (by simp)

/-! ## DISABLE -/

theorem sound_mmuDrivenOff {s : State} (hs : Sound s) : Sound (mmuDrivenOff s) := by
  have htr := traced_mmuDrivenOff true s
  rw [mmuDrivenOff_eq] at htr ⊢
  exact { hs with
    pins_written := fun hi => htr.everyPinWritten (hs.pins_written hi)
    off_before_init := fun _ => rfl }

theorem sound_unmapAll {s : State} (hs : Sound s) : Sound (unmapAll s) :=
  { hs with next_le := Nat.zero_le 8, pinsUsed_le := Nat.zero_le 5 }

/-- Once unmapped, a block that is not halted has the rest of the invariant (R83). -/
theorem blockInv_unmapAll {s : State} (hs : Sound s) (hh : s.halted = false) (herr : s.err = ErrRecord.none) :
    BlockInv (unmapAll s) :=
  { sound_unmapAll hs with
    committed_iff := fun _ => by simp
    mapped_sound := fun _ hm => by simp at hm
    mapped_mask := fun _ hm => by simp at hm
    no_record := fun _ => herr
    halted_record := fun h => absurd (hh.symm.trans h) (by simp) }

/-! ## INIT, PIN and SETSEC -/

theorem everyPinWritten_initBlock (s : State) : EveryPinWritten (initBlock s).events := by
  intro i
  rw [initBlock_eq]
  exact ⟨Pin.zero, List.mem_append_right _ (by revert i; decide)⟩

/-- INIT leaves the lifecycle state alone, which an uninitialized block has at Disabled. -/
theorem blockInv_initBlock {s : State} (hs : BlockInv s) (hh : s.halted = false) (hi : s.init = false) :
    BlockInv (initBlock s) := by
  have hwritten := everyPinWritten_initBlock s
  have hlife := hs.life_ne_mapped hh hi
  rw [initBlock_eq] at hwritten ⊢
  exact { hs with
    next_le := Nat.zero_le 8
    pins_written := fun _ => hwritten
    off_before_init := fun h => by simp at h
    mapped_sound := fun _ hm => absurd hm hlife
    halted_record := fun h => absurd (hh.symm.trans h) (by simp) }

/-- New events, a moved `next` inside the table, and new values of what the invariant does not speak of. -/
theorem BlockInv.of_traced {s t : State} {b b' : Bool} (h : BlockInv s) (hh : s.halted = false)
    (htr : Traced b b' s t) (hnext : t.next ≤ 8) (ht : t = { s with
      next := t.next, events := t.events, hw := t.hw, dacr := t.dacr, enc := t.enc, dacResult := t.dacResult }) :
    BlockInv t := by
  have hwritten : s.init = true → EveryPinWritten t.events := fun hi => htr.everyPinWritten (h.pins_written hi)
  rw [ht] at hnext ⊢
  exact { h with
    next_le := hnext
    pins_written := hwritten
    halted_record := fun hc => absurd (hh.symm.trans hc) (by simp) }

/-- While Disabled a slot can be loaded with a sound descriptor. -/
theorem BlockInv.of_slotPut {s : State} {n : SlotName} {v : Slot} (h : BlockInv s) (hlife : s.life = .disabled)
    (hv : SlotSound v) : BlockInv { s with slots := slotPut s.slots n v } :=
  { h with
    slots_sound := slotSound_slotPut h.slots_sound hv
    mapped_sound := fun _ hm => by simp [hlife] at hm
    mapped_mask := fun _ hm => by simp [hlife] at hm }

/-! ## Every command, every step -/

/-- A command of a block that is not halted keeps the invariant, effect by effect. -/
theorem blockInv_effect {i : Instr} {s t : State} (hs : BlockInv s) (hh : s.halted = false)
    (h : Effect i s t) : BlockInv t := by
  obtain ⟨b, htr⟩ := traced_effect true h
  have herr := hs.no_record hh
  have hoff := sound_mmuDrivenOff hs.sound
  cases h with
  | raised _ _ e w => exact hs.sound.raise e w
  | init hi => exact blockInv_initBlock hs hh hi
  | setsec n hlife ha hd =>
    exact hs.of_slotPut hlife fun _ => ⟨ha, lt_of_domOk hd⟩
  | encode => exact hs.of_traced hh htr hs.next_le rfl
  | pinRaised _ e w =>
    have hb : BlockInv (emit .barrier s) := hs.of_traced hh (traced_emit true (e := .barrier) rfl s) hs.next_le rfl
    exact hb.sound.raise e w
  | pin p h => exact hs.of_traced hh htr h (by simp [writePin_eq])
  | daccalc => exact hs.of_traced hh htr hs.next_le rfl
  | dacset => exact hs.of_traced hh htr hs.next_le rfl
  | commit w hinit => exact blockInv_outcome hs.sound hinit hh herr (commitBody_outcome _ w _ s)
  | disableRaised e w => exact hoff.raise e w
  | disable =>
    exact blockInv_unmapAll hoff (by simpa [mmuDrivenOff_eq] using hh) (by simpa [mmuDrivenOff_eq] using herr)
  | remapRaised e w _ => exact hoff.raise e w
  | remapMapped w hinit _ =>
    exact blockInv_outcome (sound_unmapAll hoff) (by simpa [mmuDrivenOff_eq] using hinit)
      (by simpa [mmuDrivenOff_eq] using hh) (by simpa [mmuDrivenOff_eq] using herr) (commitBody_outcome _ w _ _)
  | remapDisabled w hinit _ => exact blockInv_outcome hs.sound hinit hh herr (commitBody_outcome _ w _ s)

/-- The invariant speaks of neither OPA nor the host's side. -/
theorem BlockInv.congr_host {s t : State} (h : BlockInv s)
    (ht : t = { s with opa := t.opa, host := t.host, readData := t.readData }) : BlockInv t := by
  rw [ht]
  exact { h with }

theorem blockInv_reset : BlockInv State.reset where
  next_le := Nat.zero_le 8
  pinsUsed_le := Nat.zero_le 5
  slots_sound n hv := by rw [slotAt_reset] at hv; cases hv
  pins_written hi := by cases hi
  off_before_init _ := rfl
  committed_iff _ := by decide
  mapped_sound _ hm := by cases hm
  mapped_mask _ hm := by cases hm
  no_record _ := rfl
  halted_record hh := by cases hh

/-- What the reset event draws and keeps, the invariant does not speak of (R37). -/
theorem blockInv_resetBlock (s : State) : BlockInv (resetBlock s) := { blockInv_reset with }

theorem blockInv_step {s t : State} (hs : BlockInv s) (h : step s = .next t) : BlockInv t := by
  rcases step_next h with ⟨-, rfl⟩ | ⟨rest, -, rfl⟩ | ⟨n, rest, -, rfl⟩ | ⟨n, v, rest, -, hw⟩
  · exact hs
  · exact blockInv_resetBlock _
  · exact hs.congr_host rfl
  · have hs' : BlockInv { s with host := rest } := hs.congr_host rfl
    rcases hostWrite_next hw with ⟨-, hh, i, -, he⟩ | ⟨-, -, e, rfl⟩ | ⟨-, rfl⟩ | rfl
    · exact blockInv_effect hs' hh (exec_effect he)
    · exact hs'.sound.raise _ v
    · exact hs'.congr_host rfl
    · exact hs'

end Sys2Proof.Safety

namespace Sys2Proof.Proofs

open Sys2Proof.Machine Sys2Proof.Safety

/-- Settles O50: the bounds, slots and history of the invariant hold at every stage of a command, which is what an
error needs; a command that completes has the rest as well. -/
theorem blockInvKept : Obligations.BlockInvKept := fun _ _ hs h => blockInv_step hs h

/-- Settles O51: the block right after reset is Disabled, uninitialized and empty. -/
theorem blockInvAtReset : Obligations.BlockInvAtReset := blockInv_reset

/-- Settles O21: a halted block takes no command, and every other access changes at most OPA and the value the host
read last. -/
theorem haltedIsAbsorbing : Obligations.HaltedIsAbsorbing := by
  intro s t hs hr h
  rcases step_next h with ⟨-, rfl⟩ | ⟨rest, hh, -⟩ | ⟨n, rest, -, rfl⟩ | ⟨n, v, rest, -, hw⟩
  · exact ⟨rfl, hs⟩
  · exact absurd ⟨rest, hh⟩ hr
  · exact ⟨rfl, hs⟩
  · rcases hostWrite_next hw with ⟨-, hrun, -⟩ | ⟨-, hrun, -⟩ | ⟨-, rfl⟩ | rfl
    · exact absurd (hs.symm.trans hrun) (by simp)
    · exact absurd (hs.symm.trans hrun) (by simp)
    · exact ⟨rfl, hs⟩
    · exact ⟨rfl, hs⟩

end Sys2Proof.Proofs

/-! # What each command leaves alone (10_state.md) -/

namespace Sys2Proof.Machine

open Safety

/-! ## Frames of the shared bodies -/

/-- A body that leaves the record alone or ends halted with Fatal last, seen from the state it reached (R90). -/
theorem Ended.state_record {s : State} {p : Progress} (h : Ended s p) :
    p.state.err = s.err ∧ p.state.halted = s.halted ∨
    p.state.halted = true ∧ p.state.events.getLast? = some (.fatal p.state.err) := by
  cases p with
  | running t => exact .inl h
  | raised t => exact .inr h

theorem commitBody_untouched (P : Params) (w : Word) (pol : Policy) (s : State) :
    let t := (commitBody P w pol s).state
    t.opa = s.opa ∧ t.host = s.host ∧ t.readData = s.readData ∧ t.enc = s.enc ∧ t.dacResult = s.dacResult ∧
      t.init = s.init := by
  simpa using quiet_untouched.commitBody P w pol s

/-- Wherever COMMIT's body ends, the entries are the old ones with at most five pins from `next` on, none of them
behind the table's end (R85). -/
theorem commitBody_hw (P : Params) (w : Word) (pol : Policy) (s : State) :
    ∃ ps : List Pin, ps.length ≤ 5 ∧ (commitBody P w pol s).state.hw = placePins s.hw s.next ps := by
  have hstage : ∀ u, CommitStage P pol s u → ∃ ps : List Pin, ps.length ≤ 5 ∧ u.hw = placePins s.hw s.next ps := by
    intro u hu
    cases hu with
    | guards => exact ⟨[], by simp, rfl⟩
    | pins hfit hlen => exact ⟨_, hlen, rfl⟩
    | mapping hfit hlen => exact ⟨_, hlen.le, by rw [mappingDriven_eq]; rfl⟩
    | caches hfit hlen => exact ⟨_, hlen.le, by rw [cachesDriven_eq, mappingDriven_eq]; rfl⟩
  have h := commitBody_outcome P w pol s
  generalize commitBody P w pol s = p at h
  cases h with
  | raised e hu =>
    obtain ⟨ps, hlen, hhw⟩ := hstage _ hu
    exact ⟨ps, hlen, hhw⟩
  | mapped _ _ hfit hlen =>
    obtain ⟨ps, hlen, hhw⟩ := hstage _ (.caches hfit hlen)
    exact ⟨ps, hlen, hhw⟩

/-- A COMMIT that starts Mapped raises at once (R85). -/
theorem commitBody_mapped {P : Params} {w : Word} {pol : Policy} {s : State} (h : s.life = .mapped) :
    commitBody P w pol s = stopWith (.preconditionViolation .commitWhileMapped) w s :=
  if_pos h

/-- What completes a COMMIT has the DACR at the layout's domain value (R85). -/
theorem commitBody_dacr {P : Params} {w : Word} {pol : Policy} {s : State}
    (h : (commitBody P w pol s).state.halted = false) :
    (commitBody P w pol s).state.dacr = (commitBody P w pol s).state.layout.domAccum := by
  have ho := commitBody_outcome P w pol s
  generalize commitBody P w pol s = p at ho h
  cases ho with
  | raised e _ => simp [Progress.state] at h
  | mapped _ _ _ _ => rw [cachesDriven_eq, mappingDriven_eq]; rfl

/-- A command other than DACSET keeps the DACR at the layout's domain value (R36 (f)): INIT cannot run while Mapped,
DISABLE cannot end so, and COMMIT and REMAP write both. -/
theorem dacr_effect {i : Instr} {s t : State} (hs : BlockInv s) (hh : s.halted = false)
    (hd : s.life = .mapped → s.dacr = s.layout.domAccum) (hi : i ≠ .dacset) (h : Effect i s t)
    (hht : t.halted = false) (hmt : t.life = .mapped) : t.dacr = t.layout.domAccum := by
  cases h with
  | init h =>
    have hlife : s.life = .mapped := by simpa [initBlock_eq] using hmt
    exact absurd hlife (hs.life_ne_mapped hh h)
  | dacset => exact absurd rfl hi
  | disable => simp at hmt
  | commit => exact commitBody_dacr hht
  | remapMapped => exact commitBody_dacr hht
  | remapDisabled => exact commitBody_dacr hht
  | setsec => exact hd hmt
  | encode => exact hd hmt
  | pin => simpa using hd (by simpa using hmt)
  | daccalc => exact hd hmt
  | raised => simp at hht
  | pinRaised => simp at hht
  | disableRaised => simp at hht
  | remapRaised => simp at hht

/-! ## Commands and accesses that complete -/

theorem exec_total (i : Instr) (s : State) : ∃ t, exec i s = .next t := by
  obtain ⟨f, -, hf⟩ := exec_eq_finish_ignoresOpa i s
  exact ⟨_, hf.trans (finish_eq _)⟩

theorem hostWrite_total (n : Nat) (v : Word) (s : State) : ∃ t, hostWrite n v s = .next t := by
  unfold hostWrite issueCommand
  split
  · split
    · exact ⟨_, rfl⟩
    · split
      · exact exec_total _ s
      · exact ⟨_, rfl⟩
  · split <;> exact ⟨_, rfl⟩

/-- The port admits the access, or it is one that the block has no step for (R12, R41). -/
theorem portAccess_total {b n : Nat} {act : Host.Outcome State Fault Refusal} (h : ∃ t, act = .next t) :
    (∃ t, portAccess b n act = .next t) ∨ b ≠ 4 ∨ n % 4 ≠ 0 ∨ 0x200 ≤ n := by
  by_cases hok : b = 4 ∧ n % 4 = 0 ∧ n < 0x200
  · obtain ⟨rfl, ha, hn⟩ := hok
    rw [portAccess_ok act hn ha]
    exact .inl h
  · right
    omega

end Sys2Proof.Machine

namespace Sys2Proof.Proofs

open Sys2Proof.Machine Sys2Proof.Safety

/-- Settles O46: effect by effect; the commit half of REMAP starts from a state the disable half left. -/
theorem commandFrames : Obligations.CommandFrames := by
  intro i s t h isCommit isRemap isPin
  cases exec_effect h with
  | raised => simp
  | init => simp [isCommit, isRemap, isPin, initBlock_eq]
  | setsec => simp
  | encode => simp
  | pinRaised => simp
  | pin => simp [isPin]
  | daccalc => simp
  | dacset => simp
  | commit w _ =>
    have hu := commitBody_untouched Config.params w ‹Policy› s
    have hr := (ended_commitBody Config.params w ‹Policy› s).state_record
    simp [isCommit, hu, hr]
  | disableRaised => simp [mmuDrivenOff_eq]
  | disable => simp [mmuDrivenOff_eq]
  | remapRaised => simp [isRemap, mmuDrivenOff_eq]
  | remapMapped w _ _ =>
    have hu := commitBody_untouched Config.params w ‹Policy› (unmapAll (mmuDrivenOff s))
    have hr := (ended_commitBody Config.params w ‹Policy› (unmapAll (mmuDrivenOff s))).state_record
    simp only [unmapAll_opa, unmapAll_host, unmapAll_readData, unmapAll_enc, unmapAll_dacResult, unmapAll_init,
      unmapAll_err, unmapAll_halted, mmuDrivenOff_eq] at hu hr
    simp [isRemap, mmuDrivenOff_eq, hu, hr]
  | remapDisabled w _ _ =>
    have hu := commitBody_untouched Config.params w ‹Policy› s
    have hr := (ended_commitBody Config.params w ‹Policy› s).state_record
    simp [isRemap, hu, hr]

/-- Settles O47: every other command leaves the lifecycle state alone; DISABLE ends Disabled or where it was, and a
COMMIT from Mapped raises. -/
theorem lifecycleTransitions : Obligations.LifecycleTransitions := by
  intro i s t h
  obtain ⟨-, -, -, -, -, -, -, -, -, -, -, -, hlife, -⟩ := commandFrames i s t h
  rcases hlife with ⟨-, hlife⟩ | rfl | ⟨pol, rfl⟩ | ⟨pol, rfl⟩
  · rw [hlife]
    exact ⟨fun hd hm => absurd (hd.symm.trans hm) (by simp), fun hm hd => absurd (hd.symm.trans hm) (by simp)⟩
  · refine ⟨fun hd hm => ?_, fun _ _ => .inl rfl⟩
    rw [exec_disable_disabled hd, finish_stopWith] at h
    cases h
    exact absurd (hd.symm.trans hm) (by simp)
  · refine ⟨fun _ _ => .inl ⟨pol, rfl⟩, fun hm hd => ?_⟩
    cases exec_effect h with
    | raised => exact absurd (hm.symm.trans hd) (by simp)
    | commit w hi =>
      rw [commitBody_mapped hm] at hd
      exact absurd (hm.symm.trans hd) (by simp)
  · exact ⟨fun _ _ => .inr ⟨pol, rfl⟩, fun _ _ => .inr ⟨pol, rfl⟩⟩

/-- Settles O48: PIN writes entry `next`, COMMIT the entries from `next` on, and no other command but INIT and REMAP
writes any. -/
theorem pinsWrittenOnce : Obligations.PinsWrittenOnce := by
  intro i s t h hinit hremap k hk hlt
  cases exec_effect h with
  | init => exact absurd rfl hinit
  | pin p hn =>
    have hne : s.next ≠ k := by omega
    simp [hne]
  | commit w _ =>
    obtain ⟨ps, -, hhw⟩ := commitBody_hw Config.params w ‹Policy› s
    simp only [hhw, getElem_placePins, if_neg (Nat.not_le.mpr hlt)]
  | remapRaised => exact absurd rfl (hremap _)
  | remapMapped => exact absurd rfl (hremap _)
  | remapDisabled => exact absurd rfl (hremap _)
  | dacset => simp
  | disableRaised => simp [mmuDrivenOff_eq]
  | disable => simp [mmuDrivenOff_eq]
  | raised => rfl
  | setsec => rfl
  | encode => rfl
  | pinRaised => rfl
  | daccalc => rfl

/-- Settles O49: the disable half leaves `next` 0, so the at most five pins of the commit half end at entry 4. -/
theorem remapKeepsStaleEntries : Obligations.RemapKeepsStaleEntries := by
  intro s t pol hm h k hk hle
  cases exec_effect h with
  | raised => rfl
  | remapRaised => simp [mmuDrivenOff_eq]
  | remapMapped w _ _ =>
    obtain ⟨ps, hlen, hhw⟩ := commitBody_hw Config.params w ‹Policy› (unmapAll (mmuDrivenOff s))
    have hnone : ps[k]? = none := List.getElem?_eq_none (hlen.trans hle)
    simp only [hhw, getElem_placePins]
    simp [hnone, mmuDrivenOff_eq]
  | remapDisabled _ _ hl => exact absurd hm hl

/-- Settles O52: only a command could part the DACR from the layout's domain value, and the one that may, DACSET, has
a word of its own. -/
theorem dacrFollowsLayout : Obligations.DacrFollowsLayout := by
  intro s t hs hd hdacset h hht hmt
  rcases step_next h with ⟨-, rfl⟩ | ⟨rest, -, rfl⟩ | ⟨n, rest, -, rfl⟩ | ⟨n, v, rest, hh, hw⟩
  · exact hd hht hmt
  · cases hmt
  · exact hd hht hmt
  · have hs' : BlockInv { s with host := rest } := hs.congr_host rfl
    rcases hostWrite_next hw with ⟨rfl, hrun, i, hi, he⟩ | ⟨-, -, e, rfl⟩ | ⟨-, rfl⟩ | rfl
    · refine dacr_effect hs' hrun (hd hrun) ?_ (exec_effect he) hht hmt
      rintro rfl
      obtain ⟨-, rfl⟩ := encodeOfDecode v _ hi
      exact hdacset rest hh
    · simp at hht
    · exact hd hht hmt
    · exact hd hht hmt

/-- Settles O16: the host port alone can stop a step, since every command and every admitted access ends in a
state. -/
theorem commandsAlwaysComplete : Obligations.CommandsAlwaysComplete := by
  refine ⟨exec_total, fun s => ?_⟩
  cases hh : s.host with
  | nil => exact .inl ⟨s, by rw [step, moveOnce, hh]⟩
  | cons m rest =>
    rw [step_of_host_cons hh]
    cases m with
    | write b n v =>
      exact (portAccess_total (hostWrite_total n v _)).imp_right fun h => ⟨b, n, rest, .inr ⟨v, rfl⟩, h⟩
    | read b n => exact (portAccess_total ⟨_, rfl⟩).imp_right fun h => ⟨b, n, rest, .inl rfl, h⟩
    | reset => exact .inl ⟨_, rfl⟩

end Sys2Proof.Proofs

/-! # The lifecycle: INIT, COMMIT and REMAP, whole next states and errors (42_lifecycle.md) -/

namespace Sys2Proof.Machine

open Safety Claims

/-! ## The commands in terms of their bodies -/

theorem exists_policyOf {pol : BitVec 2} (h : pol ≠ 3) : ∃ p, policyOf pol = some p := by
  have hall : ∀ pol : BitVec 2, pol ≠ 3 → (policyOf pol).isSome := by decide
  exact Option.isSome_iff_exists.mp (hall pol h)

section Commands

variable {pol : BitVec 2} {p : Policy} {s : State}

theorem exec_commit (hp : policyOf pol = some p) (s : State) :
    exec (.commit pol) s = finish (commitWith Config.params (encodeWord (.commit pol)) p s) := by
  rw [exec, execCommit, hp]

theorem exec_commit_initialized (hp : policyOf pol = some p) (hi : s.init = true) :
    exec (.commit pol) s = finish (commitBody Config.params (encodeWord (.commit pol)) p s) := by
  rw [exec_commit hp, commitWith, if_pos hi]

theorem exec_commit_beforeInit (hp : policyOf pol = some p) (hi : s.init = false) :
    exec (.commit pol) s =
      finish (stopWith (.preconditionViolation .beforeInit) (encodeWord (.commit pol)) s) := by
  rw [exec_commit hp, commitWith, if_neg (by simp [hi])]

theorem exec_remap (hp : policyOf pol = some p) (s : State) :
    exec (.remap pol) s = finish (remapWith Config.params (encodeWord (.remap pol)) p s) := by
  rw [exec, execRemap, hp]

theorem exec_remap_beforeInit (hp : policyOf pol = some p) (hi : s.init = false) :
    exec (.remap pol) s =
      finish (stopWith (.preconditionViolation .beforeInit) (encodeWord (.remap pol)) s) := by
  rw [exec_remap hp, remapWith, if_neg (by simp [hi])]

/-- From Disabled REMAP is COMMIT's body (R87). -/
theorem exec_remap_disabled (hp : policyOf pol = some p) (hi : s.init = true) (hl : s.life = .disabled) :
    exec (.remap pol) s = finish (commitBody Config.params (encodeWord (.remap pol)) p s) := by
  rw [exec_remap hp, remapWith, if_pos hi, if_neg (by simp [hl]), andThen_running]

/-- From Mapped REMAP is DISABLE's body and then COMMIT's (R87). -/
theorem exec_remap_mapped (hp : policyOf pol = some p) (hi : s.init = true) (hl : s.life = .mapped) :
    exec (.remap pol) s = finish (andThen (disableBody (encodeWord (.remap pol)) s) fun s =>
      commitBody Config.params (encodeWord (.remap pol)) p s) := by
  rw [exec_remap hp, remapWith, if_pos hi, if_pos hl]

theorem exec_remap_reportedOff (hp : policyOf pol = some p) (hi : s.init = true) (hl : s.life = .mapped)
    (hr : mmuReport s = false) : exec (.remap pol) s =
      finish (commitBody Config.params (encodeWord (.remap pol)) p (disabledState s)) := by
  rw [exec_remap_mapped hp hi hl, disableBody_reportedOff _ hr, andThen_running]

/-- Once the disable half is done, the rest of a REMAP is a REMAP from the state it left (R87). -/
theorem exec_remap_mapped_eq (hp : policyOf pol = some p) (hi : s.init = true) (hl : s.life = .mapped)
    (hr : mmuReport s = false) : exec (.remap pol) s = exec (.remap pol) (disabledState s) := by
  rw [exec_remap_reportedOff hp hi hl hr, exec_remap_disabled hp (by simpa [disabledState] using hi) rfl]

theorem exec_init_first (hi : s.init = false) : exec .init s = .next (initBlock s) :=
  congrArg finish (if_neg (by simp [hi]))

theorem exec_init_again (hi : s.init = true) :
    exec .init s = finish (stopWith .doubleInitialization (encodeWord .init) s) :=
  congrArg finish (if_pos hi)

end Commands

/-! ## `pin_commit`'s errors (R73) -/

section PinCommit

variable {P : Params} {w : Word} {d : Descriptor} {s : State}

theorem pinCommit_misaligned (ha : aligned d.addr d.gr = false) :
    pinCommit P w d s = stopWith (.alignmentViolation d.addr d.gr) w s := by
  simp [pinCommit, ha]

theorem pinCommit_full (ha : aligned d.addr d.gr = true) (h : 8 ≤ s.next) :
    pinCommit P w d s = stopWith (.capacityExceeded s.next) w s := by
  simp [pinCommit, ha, h]

theorem pinCommit_error {e : BlockError} (ha : aligned d.addr d.gr = true) (h : s.next < 8)
    (he : encodeChecked P d = .error e) : pinCommit P w d s = stopWith e w s := by
  simp [pinCommit, ha, h, he]

end PinCommit

/-- What the specification calls a refused code is an error of the encoder with code 4 and these operands. -/
theorem encodeChecked_refusedCode {d : Descriptor} {op0 op1 : Word} (h : RefusedCode d op0 op1) :
    ∃ e, encodeChecked Config.params d = .error e ∧ ∀ w, errorRecord e w = ⟨4, w, op0, op1⟩ := by
  rcases h with ⟨hp, rfl, rfl⟩ | ⟨hp, hd, ha, rfl, rfl⟩
  · exact ⟨_, encodeChecked_invalidPermission hp, fun _ => rfl⟩
  · exact ⟨_, encodeChecked_invalidAttribute hp hd ha, fun _ => rfl⟩

/-- A policy leaves the address and the granule of a slot alone (R82). -/
theorem aligned_applyPolicy (pol : Policy) (f : Slots) (n : SlotName) :
    aligned (slotAt (applyPolicy pol f) n).sec.addr (slotAt (applyPolicy pol f) n).sec.gr =
      aligned (slotAt f n).sec.addr (slotAt f n).sec.gr := by
  obtain ⟨a, ha⟩ := slotAt_applyPolicy_attr pol f n
  rw [ha]
  rfl

/-! ## COMMIT's pin loop on slots that encode -/

/-- The state after the pin loop has written the pins of the first `k` slots (R85). -/
def layoutPinned (pol : Policy) (pins : SlotName → Pin) (k : Nat) (s : State) : State :=
  pinned ((slotOrder.take k).map pins) (beginCommit pol s)

theorem slotOrder_getElem? (n : SlotName) : slotOrder[slotIndex n]? = some n := by
  cases n <;> rfl

/-- The entry of a slot that was pinned holds its pin. -/
theorem layoutPinned_hw {pol : Policy} {pins : SlotName → Pin} {k : Nat} {s : State} {n : SlotName} {j : Nat}
    (hj : j < 8) (hn : slotIndex n < k) (he : j = s.next + slotIndex n) :
    (layoutPinned pol pins k s).hw[j] = pins n := by
  have hp : ((slotOrder.take k).map pins)[j - s.next]? = some (pins n) := by
    rw [he, Nat.add_sub_cancel_left, List.getElem?_map, List.getElem?_take_of_lt hn, slotOrder_getElem?]
    rfl
  show (placePins s.hw s.next _)[j] = _
  rw [getElem_placePins, if_pos (by omega), hp, Option.getD_some]

theorem layoutPinned_hw_below {pol : Policy} {pins : SlotName → Pin} {k : Nat} {s : State} {j : Nat}
    (hj : j < 8) (h : j < s.next) : (layoutPinned pol pins k s).hw[j] = s.hw[j] := by
  show (placePins s.hw s.next _)[j] = _
  rw [getElem_placePins, if_neg (by omega)]

section Layout

variable {w : Word} {p : Policy} {pins : SlotName → Pin} {s : State}

/-- COMMIT pins the slots that encode, as far as the table goes, and then goes on with the rest. -/
theorem commitBody_pins {k : Nat} (hl : s.life = .disabled) (hload : AllLoaded s.slots) (hk : k ≤ 5)
    (hfit : s.next + k ≤ 8)
    (henc : ∀ n ∈ slotOrder.take k, Encodes (slotAt (applyPolicy p s.slots) n).sec (pins n)) :
    commitBody Config.params w p s = andThen
      (pinSlots Config.params w (slotOrder.drop k) (layoutPinned p pins k s)) (finishCommit Config.params w p) := by
  have hlen : (slotOrder.take k).length = k := by simpa [slotOrder] using hk
  rw [commitBody_loaded w p hl hload, layoutPinned]
  conv_lhs => rw [← List.take_append_drop k slotOrder]
  rw [pinSlots_encodes w _ _ (by rw [hlen]; exact hfit) henc]

/-- With room for five pins the whole loop runs (R85). -/
theorem commitBody_encodes (hl : s.life = .disabled) (hn : s.next ≤ 3) (h : LayoutEncodes p s.slots pins) :
    commitBody Config.params w p s = finishCommit Config.params w p (layoutPinned p pins 5 s) := by
  rw [commitBody_pins hl h.1 (Nat.le_refl 5) (by omega) fun n _ => h.2 n]
  rfl

/-- A slot that `pin_commit` refuses stops COMMIT behind the pins of the slots before it. -/
theorem commitBody_stops {k : Nat} {n : SlotName} {rest : List SlotName} {e : BlockError}
    (hl : s.life = .disabled) (hload : AllLoaded s.slots) (hk : k ≤ 5) (hfit : s.next + k ≤ 8)
    (henc : ∀ m ∈ slotOrder.take k, Encodes (slotAt (applyPolicy p s.slots) m).sec (pins m))
    (hdrop : slotOrder.drop k = n :: rest)
    (hstop : pinCommit Config.params w (slotAt (applyPolicy p s.slots) n).sec (layoutPinned p pins k s) =
      stopWith e w (layoutPinned p pins k s)) :
    commitBody Config.params w p s = .raised (raiseError e w (layoutPinned p pins k s)) := by
  have hslots : (layoutPinned p pins k s).slots = applyPolicy p s.slots := rfl
  rw [commitBody_pins hl hload hk hfit henc, hdrop, pinSlots, hslots, hstop, andThen_stopWith, andThen_raised]

/-! ## The self-checks behind the pin loop -/

theorem mmuReport_driveMapping (P : Params) (k : Nat) :
    mmuReport (driveMapping P (layoutPinned p pins k s)) = mmuReport s := by
  rw [driveMapping_eq]
  exact mmuReport_congr rfl rfl

theorem cacheReport_mappingDriven (P : Params) (k : Nat) (i d : Bool) :
    cacheReport (hwWrite (.cacheEnable i d) (mappingDriven P (layoutPinned p pins k s))) =
      cacheReport (takeMmuReport s) := by
  rw [hwWrite_cacheEnable, mappingDriven_eq, takeMmuReport_eq]
  exact cacheReport_congr rfl rfl

/-- The MMU reports off: COMMIT raises with the mapping driven (R85). -/
theorem finishCommit_reportedOff (hr : mmuReport s = false) :
    finishCommit Config.params w p (layoutPinned p pins 5 s) =
      stopWith (.preconditionViolation .mmuReportsDisabled) w
        (mappingDriven Config.params (layoutPinned p pins 5 s)) := by
  rw [finishCommit, checkMmuOn, mmuReport_driveMapping, hr]
  rfl

/-- The MMU reports on: the cache step is next (R85). -/
theorem finishCommit_reportedOn (hr : mmuReport s = true) :
    finishCommit Config.params w p (layoutPinned p pins 5 s) =
      andThen (driveCaches w p (mappingDriven Config.params (layoutPinned p pins 5 s)))
        fun s => .running (markMapped s) := by
  rw [finishCommit, checkMmuOn, mmuReport_driveMapping, hr]
  rfl

theorem driveCaches_agree (hc : CachesAgree p (takeMmuReport s)) :
    driveCaches w p (mappingDriven Config.params (layoutPinned p pins 5 s)) =
      .running (cachesDriven p (mappingDriven Config.params (layoutPinned p pins 5 s))) := by
  cases ht : cacheTarget p with
  | none => simp only [driveCaches, cachesDriven, ht]
  | some target => simp only [driveCaches, cachesDriven, ht, cacheReport_mappingDriven, if_pos (hc _ ht)]

theorem driveCaches_differ {i d : Bool} {o : Bool × Bool} (ht : cacheTarget p = some (i, d))
    (ho : cacheReport (takeMmuReport s) = o) (hne : o ≠ (i, d)) :
    driveCaches w p (mappingDriven Config.params (layoutPinned p pins 5 s)) =
      stopWith (.preconditionViolation (.cachesDiffer o.1 o.2)) w
        (cachesDriven p (mappingDriven Config.params (layoutPinned p pins 5 s))) := by
  simp only [driveCaches, cachesDriven, ht, cacheReport_mappingDriven, ho, if_neg hne]

/-! ## The end of a COMMIT that maps -/

theorem layoutPinned_eq (hn : s.next ≤ 3) : layoutPinned p pins 5 s = { s with
    slots := applyPolicy p s.slots
    layout := { s.layout with pinsUsed := 5 }
    next := s.next + 5
    hw := pinsAt s.hw s.next hn pins
    events := s.events ++ [.barrier] ++ pinEvents s.next hn pins } := by
  have hhw : placePins s.hw s.next (slotOrder.map pins) = pinsAt s.hw s.next hn pins := by
    simp only [slotOrder, List.map, placePins, pinsAt]
    rw [setIfInBounds_eq_set, setIfInBounds_eq_set, setIfInBounds_eq_set, setIfInBounds_eq_set,
      setIfInBounds_eq_set]
  have hfin : ∀ j (h : j < 8), Fin.ofNat 8 j = ⟨j, h⟩ := fun j h => Fin.ext (Nat.mod_eq_of_lt h)
  have hev : pinWrites s.next (slotOrder.map pins) = pinEvents s.next hn pins := by
    simp only [slotOrder, List.map, pinWrites, pinEvents]
    rw [hfin s.next, hfin (s.next + 1), hfin (s.next + 1 + 1), hfin (s.next + 1 + 1 + 1),
      hfin (s.next + 1 + 1 + 1 + 1)]
  rw [← hhw, ← hev, layoutPinned, beginCommit_eq]
  simp [pinned, slotOrder]

/-- The end of a COMMIT that maps is the state the specification describes (R85). -/
theorem markMapped_cachesDriven (hn : s.next ≤ 3) :
    markMapped (cachesDriven p (mappingDriven Config.params (layoutPinned p pins 5 s))) =
      mappedState p pins s.next hn s.events (reportsTaken p s) s := by
  rw [layoutPinned_eq hn, cachesDriven_eq, mappingDriven_eq]
  unfold reportsTaken
  cases p <;> simp [markMapped, mappedState, dacCompute_applyPolicy, driveEvents, cacheTarget, takeMmuReport_eq,
    takeCacheReport_eq]

/-- COMMIT's body from Disabled on five legal slots and agreeing reports, under any command word (R85). -/
theorem commitBody_maps (hl : s.life = .disabled) (hn : s.next ≤ 3) (h : LayoutEncodes p s.slots pins)
    (hr : mmuReport s = true) (hc : CachesAgree p (takeMmuReport s)) :
    commitBody Config.params w p s =
      .running (mappedState p pins s.next hn s.events (reportsTaken p s) s) := by
  rw [commitBody_encodes hl hn h, finishCommit_reportedOn hr, driveCaches_agree hc, andThen_running,
    markMapped_cachesDriven hn]

end Layout

/-- The observed pair of the caches as the specification packs it into the second operand (R89). -/
theorem cachesDiffer_detail (i d : Bool) :
    (boolWord i <<< 1) ||| boolWord d = BitVec.ofNat 32 (2 * i.toNat + d.toNat) := by
  cases i <;> cases d <;> rfl

theorem errorRecord_cachesDiffer (i d : Bool) (w : Word) :
    errorRecord (.preconditionViolation (.cachesDiffer i d)) w =
      ⟨6, w, 5, BitVec.ofNat 32 (2 * i.toNat + d.toNat)⟩ := by
  rw [← cachesDiffer_detail]
  rfl

/-- The operands of an error that is no IllegalCommand do not depend on the command word (R88). -/
theorem errorOperands_word {e : BlockError} (h : ∀ r, e ≠ .illegalCommand r) (w w' : Word) :
    errorOperands w e = errorOperands w' e := by
  cases e with
  | illegalCommand r => exact absurd rfl (h r)
  | _ => rfl

/-! ## REMAP's halves -/

/-- From Disabled, REMAP maps a legal layout in the state COMMIT ends in (R87). -/
theorem exec_remap_maps {s : State} {pol : BitVec 2} {p : Policy} {pins : SlotName → Pin} (hn : s.next ≤ 3)
    (hp : policyOf pol = some p) (hi : s.init = true) (hl : s.life = .disabled)
    (henc : LayoutEncodes p s.slots pins) (hr : mmuReport s = true) (hc : CachesAgree p (takeMmuReport s)) :
    exec (.remap pol) s = .next (mappedState p pins s.next hn s.events (reportsTaken p s) s) := by
  rw [exec_remap_disabled hp hi hl, commitBody_maps hl hn henc hr hc, finish_running]

theorem mmuReport_disabledState (s : State) : mmuReport (disabledState s) = mmuReport (takeMmuReport s) :=
  mmuReport_congr rfl rfl

end Sys2Proof.Machine

namespace Sys2Proof.Proofs

open Sys2Proof.Machine Sys2Proof.Safety Sys2Proof.Claims

/-- Settles O33: `init` alone guards INIT, whose 24 events leave every entry zero. -/
theorem initInvalidatesEverything : Obligations.InitInvalidatesEverything := fun s =>
  ⟨fun hi => by rw [exec_init_first hi, initBlock_eq]; rfl,
    fun hi => (exec_init_again hi).trans (finish_stopWith_eq_halts ..)⟩

/-- Settles O35: no guard, no slot and no self-check stops the command, so it ends where it maps. -/
theorem commitMapsLayout : Obligations.CommitMapsLayout := by
  intro s pol p pins hn hp hi hl henc hr hc
  rw [exec_commit_initialized hp hi, commitBody_maps hl hn henc hr hc, finish_running]

/-- Settles O36: each clause is the first guard that fails. -/
theorem commitGuardsInOrder : Obligations.CommitGuardsInOrder := by
  intro s pol hpol w
  obtain ⟨p, hp⟩ := exists_policyOf hpol
  refine ⟨fun hi => ?_, fun hi hl => ?_, fun n hi hl hn => ?_⟩
  · exact (exec_commit_beforeInit hp hi).trans (finish_stopWith_eq_halts ..)
  · rw [exec_commit_initialized hp hi, commitBody_mapped hl]
    exact finish_stopWith_eq_halts ..
  · rw [exec_commit_initialized hp hi, commitBody, if_neg (by simp [hl]), checkSlots_unloaded _ hn,
      andThen_stopWith]
    exact finish_stopWith_eq_halts ..

/-- Settles O37: the error is raised from the state with the mapping driven. -/
theorem commitMmuCheckFails : Obligations.CommitMmuCheckFails := by
  intro s pol p pins hn hp hi hl henc hr
  rw [exec_commit_initialized hp hi, commitBody_encodes hl hn henc, finishCommit_reportedOff hr, finish_stopWith,
    layoutPinned_eq hn, mappingDriven_eq]
  refine ⟨_, rfl, rfl, rfl, rfl, hl, rfl, rfl, rfl, ?_, rfl, rfl, rfl, rfl, rfl, ?_⟩
  · exact dacCompute_applyPolicy p s.slots
  · simp [dacCompute_applyPolicy, driveEvents, errorRecord, errorCode, errorOperands, preconditionOperands]

/-- Settles O38: the error is raised from the state with the caches driven, with the pair that was observed. -/
theorem commitCacheCheckFails : Obligations.CommitCacheCheckFails := by
  intro s pol p pins i d oi od hn hp hi hl henc hr ht ho hne
  rw [exec_commit_initialized hp hi, commitBody_encodes hl hn henc, finishCommit_reportedOn hr,
    driveCaches_differ ht ho hne, andThen_stopWith, finish_raised, layoutPinned_eq hn, cachesDriven_eq,
    mappingDriven_eq]
  refine ⟨_, rfl, rfl, errorRecord_cachesDiffer oi od _, rfl, ?_, ?_, hl, rfl⟩ <;> simp [ht]

/-- Settles O39: the slots before the refused one encode, so their pins are written and nothing behind the loop
runs. -/
theorem commitStopsAtBadPermission : Obligations.CommitStopsAtBadPermission := by
  intro s pol p pins n op0 op1 hp hi hl hload hroom henc ha hrefused
  obtain ⟨e, he, hrec⟩ := encodeChecked_refusedCode hrefused
  have hle : slotIndex n ≤ 5 := (slotIndex_le n).trans (by decide)
  have hlen : ((slotOrder.take (slotIndex n)).map pins).length = slotIndex n := by
    cases n <;> rfl
  have hdrop : slotOrder.drop (slotIndex n) = n :: slotOrder.drop (slotIndex n + 1) := by
    cases n <;> rfl
  have hnext : (layoutPinned p pins (slotIndex n) s).next = s.next + slotIndex n := congrArg (s.next + ·) hlen
  have hstop := pinCommit_error (P := Config.params) (w := encodeWord (.commit pol))
    (s := layoutPinned p pins (slotIndex n) s) ((aligned_applyPolicy p s.slots n).trans ha)
    (by rw [hnext]; exact hroom) he
  rw [exec_commit_initialized hp hi, commitBody_stops hl hload hle hroom.le
    (fun m hm => henc m (slotIndex_lt_of_mem_take hm)) hdrop hstop, finish_raised]
  refine ⟨_, rfl, rfl, hrec _, hnext, ?_, fun m k hk hm hke => layoutPinned_hw hk hm hke, rfl, rfl, rfl, rfl, rfl,
    rfl, hl, rfl⟩
  exact (Nat.zero_add _).trans hlen

/-- Settles O40: the first `8 - next` slots fill the table, and the next one finds it full. -/
theorem commitExhaustsTable : Obligations.CommitExhaustsTable := by
  intro s pol p pins hlo hhi hp hi hl henc
  have hk : 8 - s.next < slotOrder.length := by simp [slotOrder]; omega
  have hlen : ((slotOrder.take (8 - s.next)).map pins).length = 8 - s.next := by
    rw [List.length_map, List.length_take, Nat.min_eq_left hk.le]
  have hnext : (layoutPinned p pins (8 - s.next) s).next = 8 :=
    (congrArg (s.next + ·) hlen).trans (by omega)
  have hstop := pinCommit_full (P := Config.params) (w := encodeWord (.commit pol))
    (henc.2 slotOrder[8 - s.next]).1 hnext.ge
  rw [exec_commit_initialized hp hi, commitBody_stops hl henc.1 hk.le (by omega) (fun m _ => henc.2 m)
    (List.drop_eq_getElem_cons hk) hstop, finish_raised, hnext]
  refine ⟨_, rfl, rfl, rfl, hnext, ?_, fun m k hk hke => layoutPinned_hw hk (by omega) hke,
    fun k hk hlt => layoutPinned_hw_below hk hlt, rfl, rfl, rfl, hl, rfl⟩
  exact (Nat.zero_add _).trans hlen

/-- Settles O42: both commands run one body, which uses the command word for the record alone; the disable half of a
REMAP leaves the state its commit half starts from. -/
theorem remapFromDisabledMaps : Obligations.RemapFromDisabledMaps := by
  refine ⟨fun s pol p pins hn hp hi hl henc hr hc => exec_remap_maps hn hp hi hl henc hr hc,
    fun s pol hpol hi hl => ?_, fun s pol hpol hi hl hr => ?_⟩
  · obtain ⟨p, hp⟩ := exists_policyOf hpol
    rw [exec_commit_initialized hp hi, exec_remap_disabled hp hi hl]
    rcases sameButWord_commitBody Config.params (encodeWord (.commit pol)) (encodeWord (.remap pol)) p s with
      ⟨t, hc, hr⟩ | ⟨e, u, he, hc, hr⟩
    · rw [hc, hr]
      exact .inl ⟨t, commitBody_running_life hc, rfl, rfl⟩
    · rw [hc, hr]
      refine .inr ⟨u, errorCode e, _, _, finish_stopWith_eq_halts e _ u, ?_⟩
      rw [errorOperands_word he (encodeWord (.commit pol)) (encodeWord (.remap pol))]
      exact finish_stopWith_eq_halts e _ u
  · obtain ⟨p, hp⟩ := exists_policyOf hpol
    exact exec_remap_mapped_eq hp hi hl hr

/-- Settles O43: the commit half maps from the state the disable half left. -/
theorem remapFromMappedRecommits : Obligations.RemapFromMappedRecommits := by
  intro s pol p pins hp hi hl henc hr hr' hc
  have hc' : CachesAgree p (takeMmuReport (disabledState s)) := fun t ht => by
    rw [← hc t ht]
    simp only [takeMmuReport_eq, disabledState]
    exact cacheReport_congr rfl rfl
  rw [exec_remap_mapped_eq hp hi hl hr, exec_remap_maps (s := disabledState s) (Nat.zero_le 3) hp
    (by simpa [disabledState] using hi) rfl (by simpa [disabledState] using henc)
    (by rw [mmuReport_disabledState]; exact hr') hc']
  cases p <;> simp [mappedState, disabledState, reportsTaken, cacheTarget, takeMmuReport_eq, takeCacheReport_eq]

/-- Settles O44: `init` guards the whole command, and the MMU's report the disable half. -/
theorem remapGuards : Obligations.RemapGuards := by
  intro s pol hpol w
  obtain ⟨p, hp⟩ := exists_policyOf hpol
  refine ⟨fun hi => ?_, fun hi hl hr => ?_⟩
  · exact (exec_remap_beforeInit hp hi).trans (finish_stopWith_eq_halts ..)
  · rw [exec_remap_mapped hp hi hl, disableBody_reportedOn _ hr, andThen_stopWith]
    exact finish_stopWith_eq_halts ..

/-- Settles O45: the invariant gives what COMMIT needs of a Mapped state, and says that its layout is the one COMMIT
makes of its slots. -/
theorem disableRemapRoundTrip : Obligations.DisableRemapRoundTrip := by
  intro s pins hs hh hl henc hr hr'
  obtain ⟨hi, -, -, hused⟩ := hs.mapped_sound hh hl
  have hlayout : s.layout = ⟨.committed, 5, dacCompute s.slots⟩ := by
    rw [← (hs.committed_iff hh).mpr hl, ← hused, ← hs.mapped_mask hh hl]
  have hdis : exec .disable s = .next (disabledState s) := by
    rw [exec_disable_mapped hl, disableBody_reportedOff _ hr, finish_running]
  have hremap := exec_remap_maps (s := disabledState s) (pol := 0) (p := .asIs) (pins := pins) (Nat.zero_le 3) rfl
    (by simpa [disabledState] using hi) rfl (by simpa [disabledState] using henc)
    (by rw [mmuReport_disabledState]; exact hr') (fun _ h => by cases h)
  refine ⟨_, _, hdis, rfl, by simp [disabledState], hremap, ?_⟩
  rw [hlayout]
  simp [mappedState, disabledState, hh]

end Sys2Proof.Proofs

/-! # PIN and the encoder: descriptors, pin words and the domain mask (40_section_pin.md, 41_domain_access.md) -/

namespace Sys2Proof.Machine

/-! ## Alignment (R39) -/

theorem aligned_zero_iff (addr : Word) : aligned addr 0 = true ↔ addr.toNat % 2 ^ 20 = 0 := by
  simp [aligned, granule, ← BitVec.toNat_inj]

theorem aligned_one_iff (addr : Word) : aligned addr 1 = true ↔ addr.toNat % 2 ^ 24 = 0 := by
  simp [aligned, granule, ← BitVec.toNat_inj]

/-- A remainder by a power of two is the low bits. -/
theorem extractLsb'_zero_eq_zero_iff_mod (w : Word) (n : Nat) : w.extractLsb' 0 n = 0 ↔ w.toNat % 2 ^ n = 0 := by
  simp [← BitVec.toNat_inj, BitVec.extractLsb'_toNat]

theorem granule_cases (gr : BitVec 1) : gr = 0 ∨ gr = 1 := by
  revert gr
  decide

/-- The low 12 bits of an aligned address are 0, for either granule. -/
theorem mod_of_aligned {addr : Word} {gr : BitVec 1} (h : aligned addr gr = true) : addr.toNat % 2 ^ 12 = 0 := by
  rcases granule_cases gr with rfl | rfl
  · have := (aligned_zero_iff addr).mp h
    omega
  · have := (aligned_one_iff addr).mp h
    omega

/-! ## The address mask of the encoder (R72) -/

theorem getLsbD_addressMask (k : Nat) : (0xFFFFF000#32).getLsbD k = (decide (12 ≤ k) && decide (k < 32)) := by
  by_cases hk : k < 32
  · interval_cases k <;> rfl
  · rw [BitVec.getLsbD_of_ge _ _ (by omega)]
    simp [hk]

theorem and_addressMask {addr : Word} (h : addr.toNat % 2 ^ 12 = 0) : addr &&& 0xFFFFF000 = addr := by
  refine BitVec.eq_of_getLsbD_eq fun k hk => ?_
  have hlow := getLsbD_of_low_eq_zero (k := k) ((extractLsb'_zero_eq_zero_iff_mod addr 12).mpr h)
  show (addr &&& 0xFFFFF000#32).getLsbD k = _
  simp only [BitVec.getLsbD_and, getLsbD_addressMask]
  grind

/-! ## The three words of a pin, bit by bit (R69) -/

section EncodePin

variable (asid : BitVec 8) (addr : Word) (gr : BitVec 1) (dom : BitVec 8) (perm : PermClass) (attr : AttrClass)

theorem encodePin_lva : (encodePin asid addr gr dom perm attr).lva =
    (addr &&& 0xFFFFF000#32) ||| 0#32 <<< 9 ||| asid.setWidth 32 := rfl

theorem encodePin_lpa : (encodePin asid addr gr dom perm attr).lpa =
    (addr &&& 0xFFFFF000#32) ||| (sizeCode gr).setWidth 32 <<< 6 ||| (apMap perm).1.setWidth 32 <<< 3 |||
      (apMap perm).2.setWidth 32 <<< 1 ||| 1#32 := rfl

theorem encodePin_lattr : (encodePin asid addr gr dom perm attr).lattr =
    (dom.extractLsb' 0 4).setWidth 32 <<< 7 ||| 0#32 <<< 6 ||| (attrMap attr).1.setWidth 32 <<< 3 |||
      (attrMap attr).2.1.setWidth 32 <<< 2 ||| (attrMap attr).2.2.setWidth 32 <<< 1 ||| 0#32 := rfl

theorem getLsbD_encodePin_lva {k : Nat} (hk : k < 32) :
    (encodePin asid addr gr dom perm attr).lva.getLsbD k =
      if k < 8 then asid.getLsbD k else if k < 12 then false else addr.getLsbD k := by
  simp only [encodePin_lva, BitVec.getLsbD_or, BitVec.getLsbD_and, getLsbD_addressMask, BitVec.zero_shiftLeft,
    BitVec.getLsbD_zero, BitVec.getLsbD_setWidth]
  grind

theorem getLsbD_encodePin_lpa {k : Nat} (hk : k < 32) :
    (encodePin asid addr gr dom perm attr).lpa.getLsbD k =
      if k < 1 then true else if k < 3 then (apMap perm).2.getLsbD (k - 1)
      else if k < 4 then (apMap perm).1.getLsbD (k - 3) else if k < 6 then false
      else if k < 8 then (sizeCode gr).getLsbD (k - 6) else if k < 12 then false else addr.getLsbD k := by
  simp only [encodePin_lpa, BitVec.getLsbD_or, BitVec.getLsbD_and, getLsbD_addressMask, BitVec.getLsbD_shiftLeft,
    BitVec.getLsbD_one, BitVec.getLsbD_setWidth]
  grind

theorem getLsbD_encodePin_lattr {k : Nat} (hk : k < 32) :
    (encodePin asid addr gr dom perm attr).lattr.getLsbD k =
      if k < 1 then false else if k < 2 then (attrMap attr).2.2.getLsbD (k - 1)
      else if k < 3 then (attrMap attr).2.1.getLsbD (k - 2) else if k < 6 then (attrMap attr).1.getLsbD (k - 3)
      else if k < 7 then false else if k < 11 then dom.getLsbD (k - 7) else false := by
  simp only [encodePin_lattr, BitVec.getLsbD_or, BitVec.getLsbD_shiftLeft, BitVec.zero_shiftLeft,
    BitVec.getLsbD_zero, BitVec.getLsbD_setWidth, BitVec.getLsbD_extractLsb']
  grind

/-- A field of a word is read off bit by bit. -/
theorem extractLsb'_eq_of_getLsbD {w : Word} {k n : Nat} {v : BitVec n}
    (h : ∀ i < n, w.getLsbD (k + i) = v.getLsbD i) : w.extractLsb' k n = v := by
  ext i hi
  rw [BitVec.getElem_extractLsb', h i hi, BitVec.getLsbD_eq_getElem hi]

theorem encodePin_lva_fields :
    let v := (encodePin asid addr gr dom perm attr).lva
    v.extractLsb' 12 20 = addr.extractLsb' 12 20 ∧ v.extractLsb' 8 4 = 0 ∧ v.extractLsb' 0 8 = asid := by
  refine ⟨?_, ?_, ?_⟩ <;> refine extractLsb'_eq_of_getLsbD fun i hi => ?_ <;>
    rw [getLsbD_encodePin_lva _ _ _ _ _ _ (by omega)] <;> grind

theorem encodePin_lpa_fields :
    let v := (encodePin asid addr gr dom perm attr).lpa
    v.extractLsb' 12 20 = addr.extractLsb' 12 20 ∧ v.extractLsb' 8 4 = 0 ∧ v.extractLsb' 6 2 = sizeCode gr ∧
      v.extractLsb' 4 2 = 0 ∧ v.extractLsb' 3 1 = (apMap perm).1 ∧ v.extractLsb' 1 2 = (apMap perm).2 := by
  refine ⟨?_, ?_, ?_, ?_, ?_, ?_⟩ <;> refine extractLsb'_eq_of_getLsbD fun i hi => ?_ <;>
    rw [getLsbD_encodePin_lpa _ _ _ _ _ _ (by omega)] <;> grind

theorem encodePin_lpa_valid : (encodePin asid addr gr dom perm attr).lpa.getLsbD 0 = true := by
  rw [getLsbD_encodePin_lpa _ _ _ _ _ _ (by omega)]
  rfl

theorem encodePin_lattr_fields :
    let v := (encodePin asid addr gr dom perm attr).lattr
    v.extractLsb' 11 21 = 0 ∧ v.extractLsb' 7 4 = dom.extractLsb' 0 4 ∧ v.extractLsb' 3 3 = (attrMap attr).1 ∧
      v.extractLsb' 2 1 = (attrMap attr).2.1 ∧ v.extractLsb' 1 1 = (attrMap attr).2.2 := by
  refine ⟨?_, ?_, ?_, ?_, ?_⟩ <;> refine extractLsb'_eq_of_getLsbD fun i hi => ?_ <;>
    rw [getLsbD_encodePin_lattr _ _ _ _ _ _ (by omega)] <;> grind

theorem encodePin_lattr_zeros : (encodePin asid addr gr dom perm attr).lattr.getLsbD 6 = false ∧
    (encodePin asid addr gr dom perm attr).lattr.getLsbD 0 = false := by
  refine ⟨?_, ?_⟩ <;> rw [getLsbD_encodePin_lattr _ _ _ _ _ _ (by omega)] <;> rfl

end EncodePin

/-! ## Legal domains (R67) -/

theorem domOk_iff (policy : SsDomainPolicy) (dom : BitVec 8) (gr : BitVec 1) : domOk policy dom gr = true ↔
    dom.toNat < 16 ∧ ¬ (gr = 1 ∧ dom ≠ 0 ∧ policy = .reject) := by
  simp only [domOk, reservedDomains, List.contains_nil, Bool.not_false, Bool.and_true, Bool.and_eq_true,
    decide_eq_true_eq, Bool.not_eq_true', Bool.and_eq_false_iff, beq_eq_false_iff_ne, bne_eq_false_iff_eq,
    not_and_or, not_not, or_assoc]

/-! ## PIN's body (R73, R76) -/

section PinOnly

variable {P : Params} {w : Word} {d : Descriptor} {s : State}

theorem pinOnly_beforeInit (hi : s.init = false) :
    pinOnly P w d s = stopWith (.preconditionViolation .beforeInit) w s :=
  if_neg (by simp [hi])

theorem pinOnly_initialized (hi : s.init = true) :
    pinOnly P w d s = pinCommit P w d { s with events := s.events ++ [.barrier] } :=
  if_pos hi

end PinOnly

/-! ## The domain mask (R22, R78) -/

theorem domainMode_or (v w : Word) (d : BitVec 4) : domainMode (v ||| w) d = domainMode v d ||| domainMode w d :=
  BitVec.extractLsb'_or

theorem domainMode_domainMask_self {dom : BitVec 8} {d : BitVec 4} (h : dom.extractLsb' 0 4 = d) :
    domainMode (domainMask dom) d = 0b01 := by
  have hall : ∀ d : BitVec 4, domainMode (zext clientCode <<< (2 * d.toNat)) d = 0b01 := by decide
  rw [domainMask, h]
  exact hall d

theorem domainMode_domainMask_ne {dom : BitVec 8} {d : BitVec 4} (h : dom.extractLsb' 0 4 ≠ d) :
    domainMode (domainMask dom) d = 0b00 := by
  have hall : ∀ e d : BitVec 4, e ≠ d → domainMode (zext clientCode <<< (2 * e.toNat)) d = 0b00 := by decide
  exact hall _ d h

/-- The mask's field of a domain, slot by slot. -/
theorem domainMode_dacCompute (f : Slots) (d : BitVec 4) : domainMode (dacCompute f) d =
    domainMode (domainMask f.code.sec.dom) d ||| domainMode (domainMask f.stack.sec.dom) d |||
      domainMode (domainMask f.istack.sec.dom) d ||| domainMode (domainMask f.heap.sec.dom) d |||
      domainMode (domainMask f.device.sec.dom) d := by
  simp [dacCompute, slotOrder, slotAt, domainMode_or]

end Sys2Proof.Machine

namespace Sys2Proof.Proofs

open Sys2Proof.Machine Sys2Proof.Safety Sys2Proof.Claims

/-- Settles O27: a granule is a power of two, which divides the address space. -/
theorem alignedSections : Obligations.AlignedSections := by
  intro addr
  simp only [extractLsb'_zero_eq_zero_iff_mod, aligned_zero_iff, aligned_one_iff]
  have := addr.isLt
  exact ⟨trivial, trivial, trivial, trivial, fun h => by omega, fun h => by omega⟩

/-- Settles O26: no domain is reserved; the codes are few. -/
theorem legalDescriptors : Obligations.LegalDescriptors := by
  refine ⟨domOk_iff, by decide, by decide⟩

/-- Settles O24: eight closed codes. -/
theorem permissionAndCacheCodes : Obligations.PermissionAndCacheCodes := by
  unfold Obligations.PermissionAndCacheCodes
  decide

/-- Settles O25: the three words bit by bit; an aligned address has no bit below the mask. -/
theorem pinFields : Obligations.PinFields := by
  intro asid addr gr dom perm attr
  obtain ⟨hva, hvz, hasid⟩ := encodePin_lva_fields asid addr gr dom perm attr
  obtain ⟨hpa, hpz, hsz, hpz', hapx, hap⟩ := encodePin_lpa_fields asid addr gr dom perm attr
  obtain ⟨haz, hdom, htex, hc, hb⟩ := encodePin_lattr_fields asid addr gr dom perm attr
  obtain ⟨hz6, hz0⟩ := encodePin_lattr_zeros asid addr gr dom perm attr
  exact ⟨fun h => and_addressMask (mod_of_aligned h), hva, hvz, hasid, hpa, hpz, hsz, hpz', hapx, hap,
    encodePin_lpa_valid asid addr gr dom perm attr, haz, hdom, hz6, htex, hc, hb, hz0⟩

/-- Settles O28: `pin_commit` behind the leading Barrier. -/
theorem pinWritesNextEntry : Obligations.PinWritesNextEntry := by
  intro s gr dom perm attr p h hi henc
  rw [exec_pin, pinOnly_initialized hi, pinCommit_ok _ (s := { s with events := s.events ++ [.barrier] })
    h henc.1 henc.2, finish_running, writePin_eq]
  simp

/-- Settles O29: each clause is the first check that fails, raised behind the leading Barrier once initialized. -/
theorem pinErrorsInOrder : Obligations.PinErrorsInOrder := by
  intro s gr dom perm attr i b okDom
  have hexec := exec_pin gr dom perm attr s
  have hinit := fun hi : s.init = true => hexec.trans (congrArg finish (pinOnly_initialized hi))
  refine ⟨fun hi => hexec.trans ?_, fun hi ha => (hinit hi).trans ?_, fun hi ha hn => (hinit hi).trans ?_,
    fun hi ha hn hp => (hinit hi).trans ?_, fun hi ha hn hp hd => (hinit hi).trans ?_,
    fun hi ha hn hp hd ht => (hinit hi).trans ?_⟩
  · rw [pinOnly_beforeInit hi]
    exact finish_stopWith_eq_halts ..
  · rw [pinCommit_misaligned ha]
    exact finish_stopWith_eq_halts ..
  · rw [pinCommit_full (s := b) ha hn]
    exact finish_stopWith_eq_halts ..
  · rw [pinCommit_error (s := b) ha hn (encodeChecked_invalidPermission hp)]
    exact finish_stopWith_eq_halts ..
  · rw [pinCommit_error (s := b) ha hn (encodeChecked_illegalDomain hp hd)]
    exact finish_stopWith_eq_halts ..
  · rw [pinCommit_error (s := b) ha hn (encodeChecked_invalidAttribute hp hd ht)]
    exact finish_stopWith_eq_halts ..

/-- Settles O31: the field of a domain is the join of what each slot's mask has there, which is the client code or
nothing. -/
theorem domainMaskFields : Obligations.DomainMaskFields := by
  intro f d
  have hfield : ∀ n, domainMode (domainMask (slotAt f n).sec.dom) d =
      if (slotAt f n).sec.dom.extractLsb' 0 4 = d then 0b01 else 0b00 := fun n => by
    split
    · next h => exact domainMode_domainMask_self h
    · next h => exact domainMode_domainMask_ne h
  have hjoin := domainMode_dacCompute f d
  rw [show domainMode (domainMask f.code.sec.dom) d = _ from hfield .code,
    show domainMode (domainMask f.stack.sec.dom) d = _ from hfield .stack,
    show domainMode (domainMask f.istack.sec.dom) d = _ from hfield .istack,
    show domainMode (domainMask f.heap.sec.dom) d = _ from hfield .heap,
    show domainMode (domainMask f.device.sec.dom) d = _ from hfield .device] at hjoin
  rw [hjoin]
  refine ⟨?_, fun h => ?_⟩
  · rintro ⟨n, h⟩
    cases n <;> rw [if_pos h] <;> (split_ifs <;> rfl)
  · rw [if_neg (h .code), if_neg (h .stack), if_neg (h .istack), if_neg (h .heap), if_neg (h .device)]
    rfl

end Sys2Proof.Proofs

/-! # The host's view: the register window, the reset event, the assembler, and translation (10_state.md, 20_memory.md,
30_encoding.md) -/

namespace Sys2Proof.Machine

open Safety

/-! ## The pin registers (R12, R30) -/

theorem readRegister_pin (s : State) (i : Fin 8) {c : Nat} (hc : c < 0x10) :
    readRegister s (0x040 + c + 0x10 * i.val) = pinWord s.hw[i] (c / 4) := by
  have hi := i.isLt
  have hd : (0x040 + c + 0x10 * i.val - 0x040) / 0x10 = i.val := by omega
  have hm : (0x040 + c + 0x10 * i.val - 0x040) % 0x10 = c := by omega
  rw [readRegister_of_le s (by omega), if_pos (by omega), readPinFile]
  simp only [hd, hm, dif_pos hi]
  rfl

/-- `PINVALID` has its ones below `next` (R12, R30). -/
theorem getLsbD_pinValidWord (s : State) (i : Nat) :
    (pinValidWord s).getLsbD i = (decide (i < 8) && logicallyValid s i) := by
  simp only [pinValidWord, zext, logicallyValid, BitVec.getLsbD_setWidth, BitVec.getLsbD_ofNat,
    Nat.testBit_two_pow_sub_one]
  by_cases h : i < 8
  · simp [h, show i < 32 by omega]
  · simp [h]

/-! ## `LAYOUT_INFO` (R12) -/

theorem getLsbD_layoutInfo (l : Layout) (k : Nat) : (layoutInfo l).getLsbD k =
    if k < 3 then (BitVec.ofNat 3 l.pinsUsed).getLsbD k
    else if k < 4 then decide (l.committed = .committed) else false := by
  show BitVec.getLsbD (w := 28 + 1 + 3) ((0 : BitVec 28) ++ BitVec.ofBool (decide (l.committed = .committed))
    ++ BitVec.ofNat 3 l.pinsUsed) k = _
  simp only [BitVec.getLsbD_append, BitVec.getLsbD_ofBool, Nat.sub_sub]
  grind

theorem layoutInfo_pinsUsed (l : Layout) : (layoutInfo l).extractLsb' 0 3 = BitVec.ofNat 3 l.pinsUsed :=
  extractLsb'_eq_of_getLsbD fun i hi => by rw [getLsbD_layoutInfo]; grind

theorem layoutInfo_high (l : Layout) : (layoutInfo l).extractLsb' 4 28 = 0 :=
  extractLsb'_eq_of_getLsbD fun i hi => by rw [getLsbD_layoutInfo]; grind

/-! ## Byte lanes and processor addresses (R38, R40) -/

theorem wordOfLanes_byteLane (v : Word) :
    wordOfLanes (byteLane v 0) (byteLane v 1) (byteLane v 2) (byteLane v 3) = v := by
  refine BitVec.eq_of_getLsbD_eq fun k hk => ?_
  show BitVec.getLsbD (w := 8 + 8 + 8 + 8) (v.extractLsb' (8 * 3) 8 ++ v.extractLsb' (8 * 2) 8
    ++ v.extractLsb' (8 * 1) 8 ++ v.extractLsb' (8 * 0) 8) k = _
  simp only [BitVec.getLsbD_append, BitVec.getLsbD_extractLsb']
  grind

theorem byteLane_zero (v : Word) : byteLane v 0 = v.setWidth 8 :=
  extractLsb'_eq_of_getLsbD fun i hi => by simp [hi]

theorem registerAddress_sub (P : Params) (n : Nat) :
    registerAddress P n - P.pinmmuBase = BitVec.ofNat 32 n := by
  rw [registerAddress, add_sub_cancel_left]

/-! ## Translation (R44, R45) -/

/-- A granule is a power of two, and alignment the remainder by it (R39). -/
theorem exists_granule_bits (gr : BitVec 1) : ∃ g, (granule gr).toNat = 2 ^ g ∧
    ∀ addr, aligned addr gr = true ↔ addr.toNat % 2 ^ g = 0 := by
  rcases granule_cases gr with rfl | rfl
  · exact ⟨20, rfl, aligned_zero_iff⟩
  · exact ⟨24, rfl, aligned_one_iff⟩

/-- The words of a pin that hold an address hold all of it, when it is aligned. -/
theorem and_addressMask_of_high {v addr : Word} (hv : ∀ k, 12 ≤ k → k < 32 → v.getLsbD k = addr.getLsbD k)
    (h : addr.toNat % 2 ^ 12 = 0) : v &&& 0xFFFFF000 = addr := by
  rw [← and_addressMask h]
  refine BitVec.eq_of_getLsbD_eq fun k hk => ?_
  show (v &&& 0xFFFFF000#32).getLsbD k = (addr &&& 0xFFFFF000#32).getLsbD k
  simp only [BitVec.getLsbD_and, getLsbD_addressMask]
  by_cases h12 : 12 ≤ k
  · rw [hv k h12 hk]
  · simp [h12]

section EncodedEntry

variable (asid : BitVec 8) {addr : Word} {gr : BitVec 1} (dom : BitVec 8) (perm : PermClass) (attr : AttrClass)

theorem entryBase_encodePin (h : aligned addr gr = true) :
    entryBase (encodePin asid addr gr dom perm attr) = addr :=
  and_addressMask_of_high (fun k h12 hk => by rw [getLsbD_encodePin_lva _ _ _ _ _ _ hk]; grind) (mod_of_aligned h)

theorem lpa_base_encodePin (h : aligned addr gr = true) :
    (encodePin asid addr gr dom perm attr).lpa &&& 0xFFFFF000 = addr :=
  and_addressMask_of_high (fun k h12 hk => by rw [getLsbD_encodePin_lpa _ _ _ _ _ _ hk]; grind) (mod_of_aligned h)

theorem entrySize_encodePin : entrySize (encodePin asid addr gr dom perm attr) = (granule gr).toNat := by
  obtain ⟨-, -, hsz, -⟩ := encodePin_lpa_fields asid addr gr dom perm attr
  rw [entrySize, hsz]
  rcases granule_cases gr with rfl | rfl <;> rfl

/-- R44's three conditions, for an address of the section under the entry's own ASID. -/
theorem entryMatches_encodePin {a : Word} (h : aligned addr gr = true) (hlo : addr.toNat ≤ a.toNat)
    (hhi : a.toNat < addr.toNat + (granule gr).toNat) :
    entryMatches asid (encodePin asid addr gr dom perm attr) a = true := by
  obtain ⟨-, -, hasid⟩ := encodePin_lva_fields asid addr gr dom perm attr
  have hvalid : hardwareValid (encodePin asid addr gr dom perm attr) = true :=
    encodePin_lpa_valid asid addr gr dom perm attr
  simp [entryMatches, hvalid, entryBase_encodePin asid dom perm attr h, entrySize_encodePin, hasid, hlo, hhi]

end EncodedEntry

/-- Above the size of an aligned section every address of it has the bits of its base. -/
theorem getLsbD_of_section {addr a : Word} {g k : Nat} (h : addr.toNat % 2 ^ g = 0)
    (hlo : addr.toNat ≤ a.toNat) (hhi : a.toNat < addr.toNat + 2 ^ g) (hk : g ≤ k) :
    addr.getLsbD k = a.getLsbD k := by
  obtain ⟨q, hq⟩ := Nat.dvd_of_mod_eq_zero h
  have hpos : 0 < 2 ^ g := Nat.two_pow_pos g
  have hdiv : a.toNat / 2 ^ g = addr.toNat / 2 ^ g := by
    rw [hq, Nat.mul_div_cancel_left q hpos]
    exact Nat.div_eq_of_lt_le (by rw [Nat.mul_comm, ← hq]; exact hlo)
      (by rw [Nat.add_mul, Nat.one_mul, Nat.mul_comm q, ← hq]; exact hhi)
  have hbit : ∀ v : Word, v.getLsbD k = (v.toNat / 2 ^ g).testBit (k - g) := fun v => by
    rw [Nat.testBit_div_two_pow, Nat.sub_add_cancel hk]
    rfl
  rw [hbit, hbit, hdiv]

/-- The base's bits above the section's size and the address's own below make the address. -/
theorem base_or_offset {addr a : Word} {g : Nat} (h : addr.toNat % 2 ^ g = 0)
    (hlo : addr.toNat ≤ a.toNat) (hhi : a.toNat < addr.toNat + 2 ^ g) :
    addr ||| (a &&& BitVec.ofNat 32 (2 ^ g - 1)) = a := by
  refine BitVec.eq_of_getLsbD_eq fun k hk => ?_
  have hlow := getLsbD_of_low_eq_zero (k := k) ((extractLsb'_zero_eq_zero_iff_mod addr g).mpr h)
  simp only [BitVec.getLsbD_or, BitVec.getLsbD_and, BitVec.getLsbD_ofNat, Nat.testBit_two_pow_sub_one]
  by_cases hkg : k < g
  · rw [hlow hkg]
    simp [hkg, hk]
  · rw [getLsbD_of_section h hlo hhi (Nat.not_lt.mp hkg)]
    simp [hkg]

theorem physicalAddress_encodePin (asid : BitVec 8) {addr a : Word} {gr : BitVec 1} (dom : BitVec 8)
    (perm : PermClass) (attr : AttrClass) (h : aligned addr gr = true) (hlo : addr.toNat ≤ a.toNat)
    (hhi : a.toNat < addr.toNat + (granule gr).toNat) :
    physicalAddress (encodePin asid addr gr dom perm attr) a = a := by
  obtain ⟨g, hsize, hal⟩ := exists_granule_bits gr
  rw [physicalAddress, lpa_base_encodePin asid dom perm attr h, entrySize_encodePin, hsize]
  exact base_or_offset ((hal addr).mp h) hlo (hsize ▸ hhi)

/-- With the MMU on and one match, the domain's mode decides (R44, R45). -/
theorem translate_of_match {k : Nat} {s : State} {x : Access} {p : Pin} (hm : s.mmuEn = true)
    (hp : matchingEntries s x.addr = [p]) : translate k s x = domainCheck k s.dacr p x := by
  rw [translate, if_pos hm, hp]

/-! ## Host writes of a statement (R62) -/

theorem step_cmd_encodeWord {s : State} {i : Instr} {rest : List HostMove} (hi : i.wellFormed = true)
    (hh : s.host = .write 4 0x000 (encodeWord i) :: rest) (h : s.halted = false) :
    step s = exec i { s with host := rest } :=
  step_cmd_ok hh (by simp [h]) (Proofs.decodeOfEncode i hi)

/-! ## Terms without a word (R59) -/

theorem slotOf_eq_none {slot : BitVec 3} (h : 5 ≤ slot.toNat) : slotOf slot = none := by
  cases hn : slotOf slot with
  | none => rfl
  | some n =>
    have := toNat_of_slotOf hn
    have := slotIndex_le n
    omega

end Sys2Proof.Machine

namespace Sys2Proof.Proofs

open Sys2Proof.Machine Sys2Proof.Safety Sys2Proof.Claims

/-- Settles O13: the word is `2 ^ next - 1` in eight bits. -/
theorem pinValidBits : Obligations.PinValidBits := getLsbD_pinValidWord

/-- Settles O14: the offset is the address's distance from the base, in a space that wraps for both. -/
theorem windowAddressesAndLanes : Obligations.WindowAddressesAndLanes := by
  refine ⟨fun P n hn => ?_, fun P a n h => ?_, fun s n => ⟨wordOfLanes_byteLane _, byteLane_zero _⟩⟩
  · have hto : (BitVec.ofNat 32 n).toNat = n := Nat.mod_eq_of_lt (by omega)
    rw [windowOffset, registerAddress_sub, hto, if_pos hn]
  · unfold windowOffset at h
    split at h
    · next hlt =>
      cases h
      exact ⟨hlt, by rw [registerAddress, BitVec.ofNat_toNat, BitVec.setWidth_eq, add_sub_cancel]⟩
    · cases h

/-- Settles O57: the section's base is read back from both words, and its size from SZ. -/
theorem identityTranslation : Obligations.IdentityTranslation :=
  fun asid _ _ _ dom perm attr h hlo hhi =>
    ⟨entryMatches_encodePin asid dom perm attr h hlo hhi, physicalAddress_encodePin asid dom perm attr h hlo hhi⟩

/-- Settles O58: each clause is one row of the mode's and the permission's table. -/
theorem domainModesDecide : Obligations.DomainModesDecide := by
  intro k s x p hm hp
  rw [translate_of_match hm hp]
  refine ⟨fun hd => ?_, fun hd => ?_, fun hd hap => ?_, fun hd hap => ?_⟩
  · rw [domainCheck, hd]
    rfl
  · rw [domainCheck, hd]
    rfl
  · rw [domainCheck, hd]
    exact if_pos hap
  · rw [domainCheck, hd]
    exact (if_neg (by rw [hap]; decide)).trans (if_pos hap)

/-- Settles O5: such a term has no slot, or no policy. -/
theorem illFormedTermsRaise : Obligations.IllFormedTermsRaise := by
  refine ⟨fun s slot gr dom perm attr h => ?_, fun s => rfl, fun s => rfl⟩
  rw [exec, execSetsec, slotOf_eq_none h]
  exact finish_stopWith_eq_halts ..

/-- Settles O6: a command word reaches `exec` unless the block is halted. -/
theorem stepRunsDecodedCommand : Obligations.StepRunsDecodedCommand := by
  intro s w i rest hh hd
  split
  · next h => exact step_cmd_halted hh h
  · next h => exact step_cmd_ok hh h hd

/-- Settles O7: the idle step is the step without a move. -/
theorem idleStepChangesNothing : Obligations.IdleStepChangesNothing := by
  intro s hh
  rw [step, moveOnce, hh]

/-- Settles O10: the register map row by row; the two files by the arithmetic of their offsets. -/
theorem registerWindow : Obligations.RegisterWindow := by
  intro s
  refine ⟨rfl, rfl, rfl, rfl, rfl, rfl, rfl, rfl, rfl, rfl, rfl, rfl, rfl, layoutInfo_pinsUsed s.layout,
    getLsbD_layoutInfo s.layout 3, layoutInfo_high s.layout, rfl, rfl, rfl, fun i => ?_, fun n => ?_⟩
  · exact ⟨readRegister_pin s i (c := 0) (by decide), readRegister_pin s i (c := 4) (by decide),
      readRegister_pin s i (c := 8) (by decide)⟩
  · exact ⟨by cases n <;> rfl, readRegister_slotCfg s n⟩

/-- Settles O18: the reset event's state is the reset state but for the three draws and the inputs to come. -/
theorem resetEventRestoresReset : Obligations.ResetEventRestoresReset := by
  intro s rest hh
  exact ⟨_, step_of_host_cons hh, rfl, rfl, rfl, rfl, rfl, slotAt_reset, rfl, rfl, rfl, rfl, rfl, rfl, rfl, rfl,
    statusWord_reset, rfl⟩

/-- Settles O20: the tables of codes and operands, with the observed pair packed into one word. -/
theorem errorCodesAndOperands : Obligations.ErrorCodesAndOperands :=
  fun w _ _ _ _ _ _ i d _ _ => ⟨rfl, rfl, rfl, rfl, rfl, rfl, rfl, rfl, rfl, rfl, errorRecord_cachesDiffer i d w,
    rfl, rfl, rfl, rfl⟩

/-- Settles O59: the OPA write is a step of its own, and the command's word decodes to the command. -/
theorem statementsRunTheirCommand : Obligations.StatementsRunTheirCommand := by
  intro a s rest hwf hh hhost
  refine ⟨fun v hv => ?_, fun hv => ?_⟩
  · have hmoves : s.host = .write 4 0x004 v :: .write 4 0x000 (encodeWord (asmCommand a)) :: rest := by
      rw [hhost, asmMoves, hv]
      rfl
    exact ⟨_, step_write_opa hmoves, step_cmd_encodeWord hwf rfl hh⟩
  · have hmoves : s.host = .write 4 0x000 (encodeWord (asmCommand a)) :: rest := by
      rw [hhost, asmMoves, hv]
      rfl
    exact step_cmd_encodeWord hwf hmoves hh

end Sys2Proof.Proofs
